-- ==== Sys2Proof/Word.lean ====
section
/-! DEFINITION. The word types of the core. `W` (00_scope.md R8) is an argument of the core's rules: a data register is a
`BitVec w`, a command word a `BitVec (w + 3)`, a directive word a `BitVec (w + 6)`, for any `w` (92_eei_decisions.md D1).
The abbreviations below are these types at 16, the value taken for this hardware and the width of spec/opcode_table.json;
the host's interface, which takes no argument, is the core at that width (log entry 3). All numbers are unsigned (R11);
addition and subtraction wrap modulo `2^W` (R14), which is what the arithmetic of `BitVec` does. -/

namespace Sys2Proof

/-- One byte of a byte-wide medium that carries a word of the spec (20_memory.md R65). -/
abbrev Byte := BitVec 8

/-- A data register at `W = 16` (10_state.md R20). -/
abbrev Word := BitVec 16

/-- The command word `CMD`, `W + 3` bits, at `W = 16` (30_encoding.md R101). -/
abbrev CmdWord := BitVec 19

/-- The directive word `DIR`, `W + 6` bits, at `W = 16` (30_encoding.md R115). -/
abbrev DirWord := BitVec 22

/-- The sector-table entry word `SECT` (30_encoding.md R94). -/
abbrev SectWord := BitVec 9

end Sys2Proof
end

