-- ==== Sys2Proof/Syntax.lean ====
section
/-! DEFINITION. The terms of the spec's encodings: the enumerations (30_encoding.md R91 to R93), the directives (R110), and
`Instr`, one constructor for each row of spec/opcode_table.json. -/

namespace Sys2Proof

/-- `MotorState` (10_state.md R21, 30_encoding.md R91). Code 3 is never held (R105, log entry 8). -/
inductive MotorState where
  | off
  | rampup
  | on
  deriving DecidableEq, Repr

/-- `PhaseChannelState` (30_encoding.md R92), with the two reserved codes as constructors of their own (R105, R211). -/
inductive PhaseChannelState where
  | off
  | float
  | driveHigh
  | driveLow
  | pwmPlus
  | pwmMinus
  | reserved6
  | reserved7
  deriving DecidableEq, Repr

/-- A channel, one of the three motor phases (30_encoding.md R93). -/
inductive Channel where
  | a
  | b
  | c
  deriving DecidableEq, Repr

/-- One directive to the external collaborators, of a core with `W = w` (30_encoding.md R110 to R114). -/
inductive Directive (w : Nat) where
  | disableAll
  | config (ch : Channel) (pwmEn level : Bool) (width : BitVec w)
  | enableSet (mask : BitVec 3)
  | setTickPeriod (value : BitVec w)
  deriving DecidableEq, Repr

/-- The formats of the opcode table (30_encoding.md R90; `mstate` is the 2-bit code of R91). -/
inductive Format where
  | cmd
  | dir
  | mstate
  | pcs
  | sect
  deriving DecidableEq, Repr

/-- One constructor for each row of spec/opcode_table.json: the eight command words (R103, R104), the four directives
(R110), the four `MotorState` codes (R91, R105), the eight `PhaseChannelState` codes (R92, R105) and the twelve entries of
the two default sector tables (R193, R194). -/
inductive Instr where
  | nop
  | tick
  | stop
  | speedInc
  | speedDec
  | setManualDuty (value : Word)
  | reserved6
  | reserved7
  | disableAll
  | config (ch : Channel) (pwmEn level : Bool) (width : Word)
  | enableSet (mask : BitVec 3)
  | setTickPeriod (value : Word)
  | motorStateOff
  | motorStateRampup
  | motorStateOn
  | motorStateReserved3
  | phaseOff
  | phaseFloat
  | phaseDriveHigh
  | phaseDriveLow
  | phasePwmPlus
  | phasePwmMinus
  | phaseReserved6
  | phaseReserved7
  | asymRail0
  | asymRail1
  | asymRail2
  | asymRail3
  | asymRail4
  | asymRail5
  | symCompl0
  | symCompl1
  | symCompl2
  | symCompl3
  | symCompl4
  | symCompl5
  deriving DecidableEq, Repr

end Sys2Proof
end

