-- ==== Sys2Proof/WellFormed.lean ====
section
/-! DEFINITION. Well-formed instructions: the words the core itself may accept or produce (log entry 20). Every command is
well formed, the reserved opcodes among them, because they execute as NOP (30_encoding.md R104). -/

namespace Sys2Proof

/-- No reserved code of the data formats: "None is ever produced by the core" (30_encoding.md R105). -/
def Instr.codeOk : Instr → Bool
  | .motorStateReserved3 => false
  | .phaseReserved6 => false
  | .phaseReserved7 => false
  | _ => true

/-- A Config directive has level 0 on a PWM channel and width 0 on a channel without PWM, as every record of ENCODE has
(43_phase_encoder.md R210). -/
def Instr.configOk : Instr → Bool
  | .config _ true level _ => !level
  | .config _ false _ width => width == 0
  | _ => true

/-- Well-formedness. -/
def Instr.wellFormed (i : Instr) : Bool := i.codeOk && i.configOk

end Sys2Proof
end

