-- ==== Sys2Proof/Decode.lean ====
section
/-! DEFINITION. The decoder of each format of the opcode table, total and rejecting by name, and after it the encoder,
written from the same tables (30_encoding.md R90 to R94, R101 to R105, R115). -/

namespace Sys2Proof

/-- Why a word is rejected. -/
inductive DecodeError where
  /-- There are fewer bytes than the format's word has (log entry 12). -/
  | tooShort
  /-- A bit above the format's width is set (log entry 12). -/
  | tooWide
  /-- A Config directive with channel code 3 (R93, R105; 93_implementation_defined.md U3: "refuse"). -/
  | reservedChannel
  /-- A directive word with a non-zero field that the table of R115 shows as 0. DESIGN CHOICE (log entry 22). -/
  | nonzeroField
  /-- A 9-bit word that is no entry of a default table (R193, R194), hence no row of the opcode table. It is
  evaluated all the same (log entry 7). -/
  | notATableEntry
  deriving DecidableEq, Repr

/-! ### Codes of the enumerations -/

/-- The 2-bit code of a motor state (R91). -/
def motorStateCode : MotorState → BitVec 2
  | .off => 0
  | .rampup => 1
  | .on => 2

/-- The 3-bit code of a phase channel state (R92, R105). -/
def phaseCode : PhaseChannelState → BitVec 3
  | .off => 0
  | .float => 1
  | .driveHigh => 2
  | .driveLow => 3
  | .pwmPlus => 4
  | .pwmMinus => 5
  | .reserved6 => 6
  | .reserved7 => 7

/-- The phase channel state of a 3-bit code (R92, R105). -/
def phaseOfCode (c : BitVec 3) : PhaseChannelState :=
  match c.toNat with
  | 0 => .off
  | 1 => .float
  | 2 => .driveHigh
  | 3 => .driveLow
  | 4 => .pwmPlus
  | 5 => .pwmMinus
  | 6 => .reserved6
  | _ => .reserved7

/-- The 2-bit channel number (R93). -/
def channelCode : Channel → BitVec 2
  | .a => 0
  | .b => 1
  | .c => 2

/-! ### Widths and bytes -/

/-- The width of a word of the format in bits (R90, R91). -/
def Format.width : Format → Nat
  | .cmd => 19
  | .dir => 22
  | .mstate => 2
  | .pcs => 3
  | .sect => 9

/-- How many bytes carry a word of the format over a byte-wide medium. -/
def Format.byteLength : Format → Nat
  | .cmd => 3
  | .dir => 3
  | .mstate => 1
  | .pcs => 1
  | .sect => 2

/-- The number whose bytes are listed least significant first (20_memory.md R65). -/
def natOfBytes : List Byte → Nat
  | [] => 0
  | b :: bs => b.toNat + 256 * natOfBytes bs

/-- The lowest bytes of a number, least significant first (20_memory.md R65). -/
def bytesOfNat : Nat → Nat → List Byte
  | 0, _ => []
  | k + 1, n => BitVec.ofNat 8 n :: bytesOfNat k (n / 256)

/-! ### Decoding -/

/-- The command a 19-bit word stands for (R101 to R104): every word is a command. -/
def decodeCmd (w : CmdWord) : Instr :=
  match (w.extractLsb' 0 3).toNat with
  | 0 => .nop
  | 1 => .tick
  | 2 => .stop
  | 3 => .speedInc
  | 4 => .speedDec
  | 5 => .setManualDuty (w.extractLsb' 3 16)
  | 6 => .reserved6
  | _ => .reserved7

/-- The directive a 22-bit word stands for (R115). Channel code 3 is refused (R105, 93_implementation_defined.md U3).
DESIGN CHOICE: a word with a non-zero field that the table of R115 shows as 0 is rejected; R115 says only that such a field
is emitted as 0 (log entry 22). -/
def decodeDir (w : DirWord) : Except DecodeError Instr :=
  let sel := w.extractLsb' 2 2
  let pwmEn := w.getLsbD 4
  let level := w.getLsbD 5
  let value := w.extractLsb' 6 16
  match (w.extractLsb' 0 2).toNat with
  | 0 => if w = 0 then .ok .disableAll else .error .nonzeroField
  | 1 =>
    match sel.toNat with
    | 0 => .ok (.config .a pwmEn level value)
    | 1 => .ok (.config .b pwmEn level value)
    | 2 => .ok (.config .c pwmEn level value)
    | _ => .error .reservedChannel
  | 2 =>
    if sel = 0 ∧ pwmEn = false ∧ level = false ∧ value.toNat < 8 then .ok (.enableSet (value.setWidth 3))
    else .error .nonzeroField
  | _ =>
    if sel = 0 ∧ pwmEn = false ∧ level = false then .ok (.setTickPeriod value) else .error .nonzeroField

/-- The row of a 2-bit `MotorState` code (R91, R105). -/
def decodeMState (w : BitVec 2) : Instr :=
  match w.toNat with
  | 0 => .motorStateOff
  | 1 => .motorStateRampup
  | 2 => .motorStateOn
  | _ => .motorStateReserved3

/-- The row of a 3-bit `PhaseChannelState` code (R92, R105). -/
def decodePcs (w : BitVec 3) : Instr :=
  match w.toNat with
  | 0 => .phaseOff
  | 1 => .phaseFloat
  | 2 => .phaseDriveHigh
  | 3 => .phaseDriveLow
  | 4 => .phasePwmPlus
  | 5 => .phasePwmMinus
  | 6 => .phaseReserved6
  | _ => .phaseReserved7

/-- The row of a 9-bit entry word of a default table (R193, R194); other entry words are no row (log entry 7). -/
def decodeSect (w : SectWord) : Except DecodeError Instr :=
  match w.toNat with
  | 0x05C => .ok .asymRail0
  | 0x0CC => .ok .asymRail1
  | 0x0E1 => .ok .asymRail2
  | 0x063 => .ok .asymRail3
  | 0x10B => .ok .asymRail4
  | 0x119 => .ok .asymRail5
  | 0x06C => .ok .symCompl0
  | 0x14C => .ok .symCompl1
  | 0x161 => .ok .symCompl2
  | 0x065 => .ok .symCompl3
  | 0x10D => .ok .symCompl4
  | 0x129 => .ok .symCompl5
  | _ => .error .notATableEntry

/-- The decoder over all formats: the word of the format `f` whose bits are `n`; a set bit above the width is
rejected (log entry 12). -/
def decodeWord (f : Format) (n : Nat) : Except DecodeError Instr :=
  if n < 2 ^ f.width then
    match f with
    | .cmd => .ok (decodeCmd (BitVec.ofNat 19 n))
    | .dir => decodeDir (BitVec.ofNat 22 n)
    | .mstate => .ok (decodeMState (BitVec.ofNat 2 n))
    | .pcs => .ok (decodePcs (BitVec.ofNat 3 n))
    | .sect => decodeSect (BitVec.ofNat 9 n)
  else .error .tooWide

/-- The decoder on bytes, least significant byte first (R65): the instruction and the bytes after its word. A set bit
above the word's width is rejected (log entry 12). -/
def decodeBytes (f : Format) (bs : List Byte) : Except DecodeError (Instr × List Byte) :=
  if bs.length < f.byteLength then .error .tooShort
  else
    match decodeWord f (natOfBytes (bs.take f.byteLength)) with
    | .ok i => .ok (i, bs.drop f.byteLength)
    | .error e => .error e

/-! ### Encoding -/

/-- The command word of an opcode and an operand, for any `W` (R101). -/
def cmdWord {w : Nat} (operand : BitVec w) (opcode : BitVec 3) : BitVec (w + 3) := operand ++ opcode

/-- The fields of a directive word, most significant first, for any `W` (R115). -/
def dirFields {w : Nat} (value : BitVec w) (level pwmEn : Bool) (sel kind : BitVec 2) : BitVec (w + 6) :=
  value ++ BitVec.ofBool level ++ BitVec.ofBool pwmEn ++ sel ++ kind

/-- The directive word `DIR`, for any `W` (R115). DESIGN CHOICE: for `W` below 3, where `zext_W(mask[2:0])` does not
exist, the value field holds the low `W` bits of the mask (log entry 21). -/
def dirWord {w : Nat} : Directive w → BitVec (w + 6)
  | .disableAll => dirFields 0 false false 0 0
  | .config ch pwmEn level width => dirFields width level pwmEn (channelCode ch) 1
  | .enableSet mask => dirFields (mask.setWidth w) false false 0 2
  | .setTickPeriod value => dirFields value false false 0 3

/-- The entry word `{C, B, A}` of three phase states (R94). -/
def sectWord (qa qb qc : PhaseChannelState) : SectWord := phaseCode qc ++ phaseCode qb ++ phaseCode qa

/-- The format of an instruction's word. -/
def Instr.format : Instr → Format
  | .nop | .tick | .stop | .speedInc | .speedDec | .setManualDuty _ | .reserved6 | .reserved7 => .cmd
  | .disableAll | .config _ _ _ _ | .enableSet _ | .setTickPeriod _ => .dir
  | .motorStateOff | .motorStateRampup | .motorStateOn | .motorStateReserved3 => .mstate
  | .phaseOff | .phaseFloat | .phaseDriveHigh | .phaseDriveLow | .phasePwmPlus | .phasePwmMinus | .phaseReserved6
  | .phaseReserved7 => .pcs
  | .asymRail0 | .asymRail1 | .asymRail2 | .asymRail3 | .asymRail4 | .asymRail5 | .symCompl0 | .symCompl1 | .symCompl2
  | .symCompl3 | .symCompl4 | .symCompl5 => .sect

/-- The bits of an instruction's canonical word: ignored operand bits are 0 (R101). -/
def encode : Instr → Nat
  | .nop => (cmdWord (0 : Word) 0).toNat
  | .tick => (cmdWord (0 : Word) 1).toNat
  | .stop => (cmdWord (0 : Word) 2).toNat
  | .speedInc => (cmdWord (0 : Word) 3).toNat
  | .speedDec => (cmdWord (0 : Word) 4).toNat
  | .setManualDuty v => (cmdWord v 5).toNat
  | .reserved6 => (cmdWord (0 : Word) 6).toNat
  | .reserved7 => (cmdWord (0 : Word) 7).toNat
  | .disableAll => (dirWord (w := 16) .disableAll).toNat
  | .config ch pwmEn level width => (dirWord (.config ch pwmEn level width)).toNat
  | .enableSet mask => (dirWord (w := 16) (.enableSet mask)).toNat
  | .setTickPeriod value => (dirWord (.setTickPeriod value)).toNat
  | .motorStateOff => (motorStateCode .off).toNat
  | .motorStateRampup => (motorStateCode .rampup).toNat
  | .motorStateOn => (motorStateCode .on).toNat
  | .motorStateReserved3 => 3
  | .phaseOff => (phaseCode .off).toNat
  | .phaseFloat => (phaseCode .float).toNat
  | .phaseDriveHigh => (phaseCode .driveHigh).toNat
  | .phaseDriveLow => (phaseCode .driveLow).toNat
  | .phasePwmPlus => (phaseCode .pwmPlus).toNat
  | .phasePwmMinus => (phaseCode .pwmMinus).toNat
  | .phaseReserved6 => (phaseCode .reserved6).toNat
  | .phaseReserved7 => (phaseCode .reserved7).toNat
  | .asymRail0 => (sectWord .pwmPlus .driveLow .float).toNat
  | .asymRail1 => (sectWord .pwmPlus .float .driveLow).toNat
  | .asymRail2 => (sectWord .float .pwmPlus .driveLow).toNat
  | .asymRail3 => (sectWord .driveLow .pwmPlus .float).toNat
  | .asymRail4 => (sectWord .driveLow .float .pwmPlus).toNat
  | .asymRail5 => (sectWord .float .driveLow .pwmPlus).toNat
  | .symCompl0 => (sectWord .pwmPlus .pwmMinus .float).toNat
  | .symCompl1 => (sectWord .pwmPlus .float .pwmMinus).toNat
  | .symCompl2 => (sectWord .float .pwmPlus .pwmMinus).toNat
  | .symCompl3 => (sectWord .pwmMinus .pwmPlus .float).toNat
  | .symCompl4 => (sectWord .pwmMinus .float .pwmPlus).toNat
  | .symCompl5 => (sectWord .float .pwmMinus .pwmPlus).toNat

/-- The bytes of an instruction's word, least significant first (R65). -/
def encodeBytes (i : Instr) : List Byte := bytesOfNat i.format.byteLength (encode i)

/-! ### The opcode table's numbering -/

/-- The format of a table word by its size in whole bytes (log entry 11): two bytes are a `SECT` word, the only format of
that size; one byte is a `PCS` word, whose codes take in the values of the `MSTATE` codes; any other size is a command, the
one format the core reads at a port (R33). -/
def tableFormat (nbits : Nat) : Format := if nbits = 16 then .sect else if nbits = 8 then .pcs else .cmd

/-- The instruction the decoder reads from a table word of `nbits` bits, higher bits zero. -/
def decodeTableWord (nbits w : Nat) : Option Instr :=
  let f := tableFormat nbits
  if w < 2 ^ (8 * f.byteLength) then
    match decodeBytes f (bytesOfNat f.byteLength w) with
    | .ok (i, _) => some i
    | .error _ => none
  else none

end Sys2Proof
end

