-- ==== Sys2Proof/Config.lean ====
section
/-! DEFINITION. The configuration record `Cfg` (00_scope.md R8): the constants of one core, fixed before reset and never
written. `Config.cfg` is the configuration of the core at reset: it has no body, because the spec leaves its fields OPEN
(92_eei_decisions.md D3 to D8), so no proof can use a value of it (log entry 2). -/

namespace Sys2Proof

/-- `RAMP_MODE` (R8, R170): the fixed-decrement or the geometric ramp. -/
inductive RampMode where
  | fixed
  | geometric
  deriving DecidableEq, Repr, Inhabited

/-- `TICK_MODEL` (R8, R142): tick-counted or direct-reprogram. -/
inductive TickModel where
  | counted
  | reprogram
  deriving DecidableEq, Repr, Inhabited

/-- `DRIVE_MODE` (R8, R192): asymmetric-rail or symmetric-complementary. -/
inductive DriveMode where
  | asymRail
  | symCompl
  deriving DecidableEq, Repr, Inhabited

/-- `SECTOR_TABLE` (R8, 20_memory.md R61, 30_encoding.md R94): six raw entry words, for sectors 0 to 5. -/
structure SectorTable where
  s0 : SectWord
  s1 : SectWord
  s2 : SectWord
  s3 : SectWord
  s4 : SectWord
  s5 : SectWord
  deriving DecidableEq, Repr, Inhabited

/-- The configuration record (R8), its first constant `W` as the argument `w`. Field by field: `PWM_PERIOD`,
`BLDC_OL_TM_LO_SPD`, `HANDOFF_TM`, `MAX_SPD_TM`, `RAMP_STEP_TM_START`, `RAMP_STEP_TM_MIN`, `RAMP_DC`, `RUN_DC`, `RAMP_MODE`,
`TICK_MODEL`, `DRIVE_MODE`, `MANUAL_MODE`, `SECTOR_TABLE`. -/
structure Cfg (w : Nat) where
  pwmPeriod : BitVec w
  loSpdTm : BitVec w
  handoffTm : BitVec w
  maxSpdTm : BitVec w
  rampStepTmStart : BitVec w
  rampStepTmMin : BitVec w
  rampDc : BitVec w
  runDc : BitVec w
  rampMode : RampMode
  tickModel : TickModel
  driveMode : DriveMode
  manualMode : Bool
  sectorTable : SectorTable
  deriving DecidableEq, Repr, Inhabited

/-- The configuration of the core at reset, left OPEN by the spec (U5, U6, U8): a free value (log entry 2). -/
opaque Config.cfg : Cfg 16

end Sys2Proof
end

