-- ==== Sys2Proof/Machine/State.lean ====
section
/-! DEFINITION. The state: the registers of 10_state.md R20 with the directive stream they emit, for any `W` (`Regs`), and
the machine the host steps (`State`), which adds the model's own fields `cfg`, `inputs` and `result` (log entries 1, 5, 6,
7). Plain data. -/

namespace Sys2Proof.Machine

/-- One output register (10_state.md R29). -/
structure OutReg (w : Nat) where
  drvEn : Bool
  pwmEn : Bool
  level : Bool
  width : BitVec w
  deriving DecidableEq, Repr

/-- The output registers of the three channels (10_state.md R29). -/
structure Outs (w : Nat) where
  a : OutReg w
  b : OutReg w
  c : OutReg w
  deriving DecidableEq, Repr

/-- The states of the three phases A, B, C: one sector-table entry, decoded (20_memory.md R61). -/
structure Phases where
  a : PhaseChannelState
  b : PhaseChannelState
  c : PhaseChannelState
  deriving DecidableEq, Repr

/-- What a word of a data format denotes (log entry 7): a motor state (R91), the record ENCODE returns (R210), the triple
TableRead returns (R62). -/
inductive Value where
  | motorState (m : MotorState)
  | record (r : OutReg 16)
  | entry (p : Phases)
  deriving DecidableEq, Repr

/-- Requests that become ready in the same instant (60_exceptions.md R264). A request of a kind counts once; the value of
SET_MANUAL_DUTY comes from a host interface of any width (30_encoding.md R102). -/
structure Requests where
  stop : Bool
  setManualDuty : Option Nat
  speedInc : Bool
  speedDec : Bool
  tick : Bool
  deriving DecidableEq, Repr

/-- A word of a data format, for evaluation (log entry 7). -/
inductive DataWord where
  | mstate (w : BitVec 2)
  | pcs (w : BitVec 3)
  | sect (w : SectWord)
  deriving DecidableEq, Repr

/-- One thing the surroundings present: the reset port, a command word at the command port (10_state.md R33), a set of
simultaneous requests at the port front end (R264), or, the model's own, a data word for evaluation (log entry 7). -/
inductive PortInput where
  | rst
  | cmd (w : CmdWord)
  | requests (r : Requests)
  | eval (d : DataWord)
  deriving DecidableEq, Repr

/-- Faults: there are none. "The core raises no synchronous exception" (60_exceptions.md R260), so no step can fault. -/
inductive Fault : Type
  deriving DecidableEq, Repr

/-- Refusals of the model. -/
inductive Refusal where
  /-- Raised by no arm of `exec` in this model: an instruction without a meaning. Safe. -/
  | notModelled (mnemonic : String)
  /-- Raised by the row `MotorState.RESERVED_3`: code 3 has no defined behaviour (R105, 93_implementation_defined.md U3).
  Safe: the core never holds or produces the code. -/
  | reservedMotorStateCode
  deriving DecidableEq, Repr

/-- The registers of a core with `W = w`, every one of 10_state.md R20, and the directive stream they have emitted: what the
core's rules read and write. `Cfg` is no part of it (20_memory.md R75). -/
structure Regs (w : Nat) where
  /-- `MotorState` (R21). -/
  motorState : MotorState
  /-- `CommutationSector`, 3 bits (R22). -/
  sector : BitVec 3
  /-- `DutyCycleTarget` (R23). -/
  duty : BitVec w
  /-- `CommutationPeriod` (R24). -/
  period : BitVec w
  /-- `RampStepTimer` (R25). -/
  rampTimer : BitVec w
  /-- `RampStepInterval` (R26). -/
  rampInterval : BitVec w
  /-- `TickCounter` (R27). -/
  tickCounter : BitVec w
  /-- `ManualDuty` (R28). -/
  manualDuty : BitVec w
  /-- `Out[A]`, `Out[B]`, `Out[C]` (R29). -/
  out : Outs w
  /-- The directive stream emitted so far, oldest first (R33, R71, log entry 6). -/
  directives : List (Directive w)
  deriving DecidableEq, Repr

/-- The machine the host steps: the registers of the core at `W = 16` and what stands around them, the configuration the
core's step takes as its argument, the ports' inputs and the model's `result`. -/
structure State extends Regs 16 where
  /-- The core's constants; no step writes them (R31, R75, log entry 1). -/
  cfg : Cfg 16
  /-- What the surroundings present at the ports, oldest first (R33, log entry 5). -/
  inputs : List PortInput
  /-- What the last evaluated data word denotes (log entry 7). -/
  result : Option Value
  deriving DecidableEq, Repr

/-- The output record of a channel that is off: every field 0 (R29, R211). -/
def OutReg.allOff {w : Nat} : OutReg w := ⟨false, false, false, 0⟩

/-- The reset value of the output registers (R29, R291). -/
def Outs.allOff {w : Nat} : Outs w := ⟨.allOff, .allOff, .allOff⟩

/-- The registers right after reset, nothing emitted (70_reset_and_hazards.md R290, R291). -/
def Regs.reset {w : Nat} : Regs w where
  motorState := .off
  sector := 0
  duty := 0
  period := 0
  rampTimer := 0
  rampInterval := 0
  tickCounter := 0
  manualDuty := 0
  out := .allOff
  directives := []

/-- The state right after reset (70_reset_and_hazards.md R290, R291). -/
def State.reset : State where
  toRegs := .reset
  cfg := Config.cfg
  inputs := []
  result := none

end Sys2Proof.Machine
end

