-- ==== Sys2Proof/Machine/Operands.lean ====
section
/-! DEFINITION. The operand form and the small arithmetic of the rules: the clamps, the floor of the halving and the
sector's successor (00_scope.md R14). -/

namespace Sys2Proof.Machine

variable {w : Nat}

/-- The operand of SET_MANUAL_DUTY after clamping: `min(value, PWM_PERIOD - 1)` (44_speed_adjust.md R242, 30_encoding.md
R102). The subtraction wraps for `PWM_PERIOD = 0` (R14, log entry 15). -/
def clampDuty (c : Cfg w) (value : BitVec w) : BitVec w :=
  if value ≤ c.pwmPeriod - 1 then value else c.pwmPeriod - 1

/-- A host value of any width, saturated to `2^W - 1` before the command word is formed (30_encoding.md R102). -/
def saturateOperand (n : Nat) : BitVec w := if n < 2 ^ w then BitVec.ofNat w n else BitVec.allOnes w

/-- The next ramp step interval: `max(interval >> 1, RAMP_STEP_TM_MIN)` (41_ramp_generator.md R172). -/
def halveInterval (c : Cfg w) (interval : BitVec w) : BitVec w :=
  if interval >>> 1 < c.rampStepTmMin then c.rampStepTmMin else interval >>> 1

/-- `(sector + 1) mod 6` (40_state_machine.md R138), for the codes 6 and 7 too (log entry 9). -/
def nextSector (sector : BitVec 3) : BitVec 3 := BitVec.ofNat 3 ((sector.toNat + 1) % 6)

/-- The duty-cycle target of the state ON: `ManualDuty` in manual mode, else `RUN_DC` (40_state_machine.md R134). -/
def runDuty (c : Cfg w) (s : Regs w) : BitVec w := if c.manualMode then s.manualDuty else c.runDc

end Sys2Proof.Machine
end

