-- ==== Sys2Proof/Machine/Ops.lean ====
section
/-! DEFINITION. The named operations over the registers: one writer for each register (00_scope.md R12, `Reg <- v`), the
output registers and the directive stream (`emit d`), and RESET. The core raises no exception and has no trap entry and
no trap return (60_exceptions.md R260, R265, R266), so no operation for them stands here. -/

namespace Sys2Proof.Machine

variable {w : Nat}

/-! ### Writing a register -/

def Regs.setMotorState (s : Regs w) (v : MotorState) : Regs w := { s with motorState := v }
def Regs.setSector (s : Regs w) (v : BitVec 3) : Regs w := { s with sector := v }
def Regs.setDuty (s : Regs w) (v : BitVec w) : Regs w := { s with duty := v }
def Regs.setPeriod (s : Regs w) (v : BitVec w) : Regs w := { s with period := v }
def Regs.setRampTimer (s : Regs w) (v : BitVec w) : Regs w := { s with rampTimer := v }
def Regs.setRampInterval (s : Regs w) (v : BitVec w) : Regs w := { s with rampInterval := v }
def Regs.setTickCounter (s : Regs w) (v : BitVec w) : Regs w := { s with tickCounter := v }
def Regs.setManualDuty (s : Regs w) (v : BitVec w) : Regs w := { s with manualDuty := v }
def Regs.setOut (s : Regs w) (v : Outs w) : Regs w := { s with out := v }
def Regs.setDirectives (s : Regs w) (v : List (Directive w)) : Regs w := { s with directives := v }

/-! ### Writing the machine around the registers -/

def State.setRegs (s : State) (v : Regs 16) : State := { s with toRegs := v }
def State.setInputs (s : State) (v : List PortInput) : State := { s with inputs := v }
def State.setResult (s : State) (v : Option Value) : State := { s with result := v }

/-- Run a rule of the core on the machine: the rule takes the configuration and the registers (20_memory.md R75). -/
def State.update (s : State) (f : Cfg 16 → Regs 16 → Regs 16) : State := s.setRegs (f s.cfg s.toRegs)

/-! ### The output registers and the directive stream -/

/-- `Out[ch]` (20_memory.md R64). -/
def Outs.get (o : Outs w) : Channel → OutReg w
  | .a => o.a
  | .b => o.b
  | .c => o.c

/-- `Out[ch] <- r`. -/
def Outs.set (o : Outs w) (ch : Channel) (r : OutReg w) : Outs w :=
  match ch with
  | .a => { o with a := r }
  | .b => { o with b := r }
  | .c => { o with c := r }

/-- The three `drv_en` fields, bit 0 = A, bit 1 = B, bit 2 = C (30_encoding.md R93). -/
def Outs.setDrvEn (o : Outs w) (mask : BitVec 3) : Outs w :=
  { a := { o.a with drvEn := mask.getLsbD 0 }
    b := { o.b with drvEn := mask.getLsbD 1 }
    c := { o.c with drvEn := mask.getLsbD 2 } }

/-- What a directive writes to the output registers (30_encoding.md R111 to R114). -/
def Outs.apply (o : Outs w) : Directive w → Outs w
  | .disableAll => o.setDrvEn 0
  | .config ch pwmEn level width => o.set ch { o.get ch with pwmEn := pwmEn, level := level, width := width }
  | .enableSet mask => o.setDrvEn mask
  | .setTickPeriod _ => o

/-- What a list of directives writes, oldest first (20_memory.md R71). -/
def Outs.replay : Outs w → List (Directive w) → Outs w
  | o, [] => o
  | o, d :: ds => (o.apply d).replay ds

/-- `emit d`: append `d` to the stream and perform its writes (00_scope.md R12). -/
def emit (d : Directive w) (s : Regs w) : Regs w := (s.setOut (s.out.apply d)).setDirectives (s.directives ++ [d])

/-- Emit several directives in order. -/
def emitAll : List (Directive w) → Regs w → Regs w
  | [], s => s
  | d :: ds, s => emitAll ds (emit d s)

/-! ### RESET -/

/-- RESET, the hardware reset operation (70_reset_and_hazards.md R290): every register of R20 to its reset value; no
directive is emitted, and those emitted before stay in the record. -/
def resetRegisters (s : Regs w) : Regs w := Regs.reset.setDirectives s.directives

end Sys2Proof.Machine
end

