-- ==== Sys2Proof/Machine/SectorTable.lean ====
section
/-! DEFINITION. The commutation sector table (42_sector_table.md): the table read, SECTOR_LOOKUP with the zero-duty
override, the default tables, the role classes, `TableValid` and the enable patterns. -/

namespace Sys2Proof.Machine

/-- The three phase states of an entry word `{C, B, A}` (30_encoding.md R94). -/
def phasesOfWord (w : SectWord) : Phases where
  a := phaseOfCode (w.extractLsb' 0 3)
  b := phaseOfCode (w.extractLsb' 3 3)
  c := phaseOfCode (w.extractLsb' 6 3)

/-- The three phases off (20_memory.md R66, R191). -/
def Phases.allOff : Phases := ⟨.off, .off, .off⟩

/-- `TableRead(s)` (20_memory.md R62); sector codes 6 and 7 read `(Off, Off, Off)` (R66). -/
def tableRead (t : SectorTable) (sector : BitVec 3) : Phases :=
  match sector.toNat with
  | 0 => phasesOfWord t.s0
  | 1 => phasesOfWord t.s1
  | 2 => phasesOfWord t.s2
  | 3 => phasesOfWord t.s3
  | 4 => phasesOfWord t.s4
  | 5 => phasesOfWord t.s5
  | _ => .allOff

/-- SECTOR_LOOKUP (R190), with the zero-duty override (R191). -/
def sectorLookup {w : Nat} (c : Cfg w) (s : Regs w) : Phases :=
  if s.duty = 0 then .allOff else tableRead c.sectorTable s.sector

/-- The default tables (R193, R194). -/
def defaultTable : DriveMode → SectorTable
  | .asymRail => ⟨0x05C, 0x0CC, 0x0E1, 0x063, 0x10B, 0x119⟩
  | .symCompl => ⟨0x06C, 0x14C, 0x161, 0x065, 0x10D, 0x129⟩

/-! ### Role classes and `TableValid` -/

/-- The roles of R195: the three classes, and `plus` and `minus` in place of `modulated` in the symmetric mode. -/
inductive Role where
  | modulated
  | rail
  | floating
  | plus
  | minus
  deriving DecidableEq, Repr

/-- The role of a phase state (R195). A reserved code is floating, as it is treated as Off (R105, log entry 16). -/
def role (m : DriveMode) (q : PhaseChannelState) : Role :=
  match q with
  | .driveHigh => .rail
  | .driveLow => .rail
  | .pwmPlus => match m with
    | .asymRail => .modulated
    | .symCompl => .plus
  | .pwmMinus => match m with
    | .asymRail => .modulated
    | .symCompl => .minus
  | .off => .floating
  | .float => .floating
  | .reserved6 => .floating
  | .reserved7 => .floating

/-- How many of the three phases satisfy `f`. -/
def Phases.count (p : Phases) (f : PhaseChannelState → Bool) : Nat := (f p.a).toNat + (f p.b).toNat + (f p.c).toNat

/-- The roles of the three phases. -/
def Phases.roles (m : DriveMode) (p : Phases) : Role × Role × Role := (role m p.a, role m p.b, role m p.c)

/-- A code in 0 to 5 that is not Off (R196 T1). -/
def tableCode : PhaseChannelState → Bool
  | .float => true
  | .driveHigh => true
  | .driveLow => true
  | .pwmPlus => true
  | .pwmMinus => true
  | .off => false
  | .reserved6 => false
  | .reserved7 => false

/-- R196 T1: no reserved code and no Off. -/
def tableT1 (p : Phases) : Bool := tableCode p.a && tableCode p.b && tableCode p.c

/-- R196 T2 and T3, whichever the drive mode asks for. -/
def tableT23 (m : DriveMode) (p : Phases) : Bool :=
  match m with
  | .asymRail =>
    p.count (fun q => role .asymRail q == .modulated) == 1 && p.count (fun q => role .asymRail q == .rail) == 1
      && p.count (· == .float) == 1
  | .symCompl => p.count (· == .pwmPlus) == 1 && p.count (· == .pwmMinus) == 1 && p.count (· == .float) == 1

/-- One phase keeps the role `k = k'`; the other two have exchanged theirs and did not keep them (R196 T4). -/
def keptOne (k k' x x' y y' : Role) : Bool := k == k' && x == y' && y == x' && x != x' && y != y'

/-- R196 T4: exactly one phase keeps its role, the other two exchange theirs. -/
def tableT4 : Role × Role × Role → Role × Role × Role → Bool
  | (a, b, c), (a', b', c') => keptOne a a' b b' c c' || keptOne b b' a a' c c' || keptOne c c' a a' b b'

/-- R196 T5: a phase that keeps its role is not the floating one. -/
def tableT5 : Role × Role × Role → Role × Role × Role → Bool
  | (a, b, c), (a', b', c') =>
    (a != a' || a != .floating) && (b != b' || b != .floating) && (c != c' || c != .floating)

/-- The six sectors. -/
def sectors : List (BitVec 3) := [0, 1, 2, 3, 4, 5]

/-- The entry of sector `s`, by roles. -/
def sectorRoles (t : SectorTable) (m : DriveMode) (s : BitVec 3) : Role × Role × Role := (tableRead t s).roles m

/-- R196 T6: no entry's roles occur again later in the list. -/
def allDifferent : List (Role × Role × Role) → Bool
  | [] => true
  | r :: rs => rs.all (· != r) && allDifferent rs

/-- `TableValid(T, mode)` (R196). -/
def tableValid (t : SectorTable) (m : DriveMode) : Bool :=
  sectors.all (fun s => tableT1 (tableRead t s) && tableT23 m (tableRead t s))
    && sectors.all (fun s =>
      tableT4 (sectorRoles t m s) (sectorRoles t m (nextSector s))
        && tableT5 (sectorRoles t m s) (sectorRoles t m (nextSector s)))
    && allDifferent (sectors.map (sectorRoles t m))

/-! ### Enable patterns -/

/-- Whether the output stage of a phase state is enabled: neither Off nor Float (30_encoding.md R95), a reserved code
counting as Off (R105). -/
def driven : PhaseChannelState → Bool
  | .driveHigh => true
  | .driveLow => true
  | .pwmPlus => true
  | .pwmMinus => true
  | .off => false
  | .float => false
  | .reserved6 => false
  | .reserved7 => false

/-- The enable pattern of an entry, bits C, B, A (R197, 30_encoding.md R95). -/
def enablePattern (p : Phases) : BitVec 3 :=
  BitVec.ofBool (driven p.c) ++ BitVec.ofBool (driven p.b) ++ BitVec.ofBool (driven p.a)

/-- The polarity pattern, constant (10_state.md R30, 30_encoding.md R95). -/
def polarityPattern : BitVec 3 := 0

end Sys2Proof.Machine
end

