-- ==== Sys2Proof/Machine/PhaseEncoder.lean ====
section
/-! DEFINITION. The phase output encoder (43_phase_encoder.md): ENCODE and the bracketed UPDATE_OUTPUTS. -/

namespace Sys2Proof.Machine

variable {w : Nat}

/-- ENCODE of a phase state for the PWM period `p` and the duty `d` (R210 to R215); a reserved code is encoded as Off
(R211). -/
def encodePhase (p d : BitVec w) : PhaseChannelState → OutReg w
  | .off => ⟨false, false, false, 0⟩
  | .float => ⟨false, false, false, 0⟩
  | .driveHigh => ⟨true, false, true, 0⟩
  | .driveLow => ⟨true, false, false, 0⟩
  | .pwmPlus => ⟨true, true, false, d⟩
  | .pwmMinus => ⟨true, true, false, p - d⟩
  | .reserved6 => ⟨false, false, false, 0⟩
  | .reserved7 => ⟨false, false, false, 0⟩

/-- The three records of an entry. -/
def encodePhases (p d : BitVec w) (q : Phases) : Outs w := ⟨encodePhase p d q.a, encodePhase p d q.b, encodePhase p d q.c⟩

/-- The desired output vector `des` of UPDATE_OUTPUTS (R220). -/
def desiredOuts (c : Cfg w) (s : Regs w) : Outs w := encodePhases c.pwmPeriod s.duty (sectorLookup c s)

/-- The mask of EnableSet, `{des[C].drv_en, des[B].drv_en, des[A].drv_en}` (R220, R223). -/
def enableMask (o : Outs w) : BitVec 3 :=
  BitVec.ofBool o.c.drvEn ++ BitVec.ofBool o.b.drvEn ++ BitVec.ofBool o.a.drvEn

/-- The Config directive of a channel (R220). -/
def configOf (ch : Channel) (r : OutReg w) : Directive w := .config ch r.pwmEn r.level r.width

/-- The bracket that takes the outputs to `des` (R220). -/
def bracket (des : Outs w) : List (Directive w) :=
  [.disableAll, configOf .a des.a, configOf .b des.b, configOf .c des.c, .enableSet (enableMask des)]

/-- UPDATE_OUTPUTS (R220): nothing where nothing changes (R221), else the bracket. -/
def updateOutputs (c : Cfg w) (s : Regs w) : Regs w :=
  if desiredOuts c s = s.out then s else emitAll (bracket (desiredOuts c s)) s

end Sys2Proof.Machine
end

