-- ==== Sys2Proof/Machine/DataWords.lean ====
section
/-! DEFINITION. The meanings of the rows of the data formats MSTATE, PCS and SECT (log entry 7). Such a word denotes a
value and is no command: evaluating it puts the value into `result`, writes no register and emits nothing (30_encoding.md
R91; 43_phase_encoder.md R210, R216: ENCODE "reads and writes no register"; 20_memory.md R62, R68: TableRead is "a pure
lookup"). -/

namespace Sys2Proof.Machine

/-- A `MotorState` code evaluates to the motor state (R91). -/
def evalMotorState (m : MotorState) (s : State) : State := s.setResult (some (.motorState m))

/-- A `PhaseChannelState` code evaluates to the record ENCODE returns for it at the present duty (R210). -/
def evalPhase (q : PhaseChannelState) (s : State) : State :=
  s.setResult (some (.record (encodePhase s.cfg.pwmPeriod s.duty q)))

/-- A sector-table entry word evaluates to the triple TableRead returns for it (R62, R94). -/
def evalEntry (w : SectWord) (s : State) : State := s.setResult (some (.entry (phasesOfWord w)))

/-- `MotorState.OFF` (R91). -/
def execMotorStateOff (s : State) : Host.Outcome State Fault Refusal := .next (evalMotorState .off s)

/-- `MotorState.RAMPUP` (R91). -/
def execMotorStateRampup (s : State) : Host.Outcome State Fault Refusal := .next (evalMotorState .rampup s)

/-- `MotorState.ON` (R91). -/
def execMotorStateOn (s : State) : Host.Outcome State Fault Refusal := .next (evalMotorState .on s)

/-- `MotorState` code 3: reserved (R105), "`MotorState` code 3 has no defined behaviour" (93_implementation_defined.md
U3). -/
def execMotorStateReserved3 (_s : State) : Host.Outcome State Fault Refusal := .refused .reservedMotorStateCode

/-- ENCODE of `Off` (R211). -/
def execPhaseOff (s : State) : Host.Outcome State Fault Refusal := .next (evalPhase .off s)

/-- ENCODE of `Float` (R211). -/
def execPhaseFloat (s : State) : Host.Outcome State Fault Refusal := .next (evalPhase .float s)

/-- ENCODE of `DriveHigh` (R212). -/
def execPhaseDriveHigh (s : State) : Host.Outcome State Fault Refusal := .next (evalPhase .driveHigh s)

/-- ENCODE of `DriveLow` (R213). -/
def execPhaseDriveLow (s : State) : Host.Outcome State Fault Refusal := .next (evalPhase .driveLow s)

/-- ENCODE of `PwmPlus` (R214). -/
def execPhasePwmPlus (s : State) : Host.Outcome State Fault Refusal := .next (evalPhase .pwmPlus s)

/-- ENCODE of `PwmMinus` (R215). -/
def execPhasePwmMinus (s : State) : Host.Outcome State Fault Refusal := .next (evalPhase .pwmMinus s)

/-- ENCODE of `Reserved6` (R211, encoded as Off). -/
def execPhaseReserved6 (s : State) : Host.Outcome State Fault Refusal := .next (evalPhase .reserved6 s)

/-- ENCODE of `Reserved7` (R211, encoded as Off). -/
def execPhaseReserved7 (s : State) : Host.Outcome State Fault Refusal := .next (evalPhase .reserved7 s)

/-- Entry 0 of the default table (R193). -/
def execAsymRail0 (s : State) : Host.Outcome State Fault Refusal := .next (evalEntry 0x05C s)

/-- Entry 1 of the default table (R193). -/
def execAsymRail1 (s : State) : Host.Outcome State Fault Refusal := .next (evalEntry 0x0CC s)

/-- Entry 2 of the default table (R193). -/
def execAsymRail2 (s : State) : Host.Outcome State Fault Refusal := .next (evalEntry 0x0E1 s)

/-- Entry 3 of the default table (R193). -/
def execAsymRail3 (s : State) : Host.Outcome State Fault Refusal := .next (evalEntry 0x063 s)

/-- Entry 4 of the default table (R193). -/
def execAsymRail4 (s : State) : Host.Outcome State Fault Refusal := .next (evalEntry 0x10B s)

/-- Entry 5 of the default table (R193). -/
def execAsymRail5 (s : State) : Host.Outcome State Fault Refusal := .next (evalEntry 0x119 s)

/-- Entry 0 of the default table (R194). -/
def execSymCompl0 (s : State) : Host.Outcome State Fault Refusal := .next (evalEntry 0x06C s)

/-- Entry 1 of the default table (R194). -/
def execSymCompl1 (s : State) : Host.Outcome State Fault Refusal := .next (evalEntry 0x14C s)

/-- Entry 2 of the default table (R194). -/
def execSymCompl2 (s : State) : Host.Outcome State Fault Refusal := .next (evalEntry 0x161 s)

/-- Entry 3 of the default table (R194). -/
def execSymCompl3 (s : State) : Host.Outcome State Fault Refusal := .next (evalEntry 0x065 s)

/-- Entry 4 of the default table (R194). -/
def execSymCompl4 (s : State) : Host.Outcome State Fault Refusal := .next (evalEntry 0x10D s)

/-- Entry 5 of the default table (R194). -/
def execSymCompl5 (s : State) : Host.Outcome State Fault Refusal := .next (evalEntry 0x129 s)

end Sys2Proof.Machine
end

