-- ==== Sys2Proof/Machine/Directives.lean ====
section
/-! DEFINITION. The meanings of the four directive rows: each emits the directive (30_encoding.md R110 to R114). No step
takes one from a port: TICK emits them (log entry 10). -/

namespace Sys2Proof.Machine

/-- DisableAll (R111). -/
def execDisableAll (s : State) : Host.Outcome State Fault Refusal := .next (s.update fun _ => emit .disableAll)

/-- Config (R112). -/
def execConfig (ch : Channel) (pwmEn level : Bool) (width : Word) (s : State) : Host.Outcome State Fault Refusal :=
  .next (s.update fun _ => emit (.config ch pwmEn level width))

/-- EnableSet (R113). -/
def execEnableSet (mask : BitVec 3) (s : State) : Host.Outcome State Fault Refusal :=
  .next (s.update fun _ => emit (.enableSet mask))

/-- SetTickPeriod (R114). -/
def execSetTickPeriod (value : Word) (s : State) : Host.Outcome State Fault Refusal :=
  .next (s.update fun _ => emit (.setTickPeriod value))

end Sys2Proof.Machine
end

