-- ==== Sys2Proof/Machine/ConfigCheck.lean ====
section
/-! DEFINITION. `ConfigValid` (00_scope.md R9) and the reference test configuration `CFG_T` (R10). The upper bounds
`2^W - 1` hold by the width of the fields. -/

namespace Sys2Proof.Machine

/-- R9 V1. -/
def configV1 {w : Nat} (c : Cfg w) : Bool :=
  decide (2 ≤ c.pwmPeriod.toNat) && decide (1 ≤ c.rampDc.toNat) && decide (c.rampDc.toNat < c.pwmPeriod.toNat)
    && decide (1 ≤ c.runDc.toNat) && decide (c.runDc.toNat < c.pwmPeriod.toNat)

/-- R9 V2. -/
def configV2 {w : Nat} (c : Cfg w) : Bool :=
  decide (1 ≤ c.maxSpdTm.toNat) && decide (c.maxSpdTm.toNat ≤ c.handoffTm.toNat)
    && decide (c.handoffTm.toNat < c.loSpdTm.toNat)

/-- R9 V3. -/
def configV3 {w : Nat} (c : Cfg w) : Bool := decide (c.rampStepTmMin.toNat ≤ c.rampStepTmStart.toNat)

/-- R9 V4. -/
def configV4 {w : Nat} (c : Cfg w) : Bool := tableValid c.sectorTable c.driveMode

/-- `ConfigValid(Cfg)` (R9). -/
def configValid {w : Nat} (c : Cfg w) : Bool := configV1 c && configV2 c && configV3 c && configV4 c

/-- `CFG_T` (R10): the test configuration of 95_test_vectors.md, not the hardware's configuration. -/
def cfgT : Cfg 16 where
  pwmPeriod := 250
  loSpdTm := 512
  handoffTm := 80
  maxSpdTm := 40
  rampStepTmStart := 8
  rampStepTmMin := 1
  rampDc := 50
  runDc := 75
  rampMode := .geometric
  tickModel := .counted
  driveMode := .asymRail
  manualMode := false
  sectorTable := defaultTable .asymRail

end Sys2Proof.Machine
end

