-- ==== Sys2Proof/Machine/Flags.lean ====
section
/-! DEFINITION. The core has no flags and no status register (10_state.md R32). The Boolean signals that are computed and
consumed inside one command, and never stored, stand here. -/

namespace Sys2Proof.Machine

variable {w : Nat}

/-- `ramping`: `CommutationPeriod > HANDOFF_TM` (40_state_machine.md R131). -/
def ramping (c : Cfg w) (s : Regs w) : Bool := decide (c.handoffTm < s.period)

/-- `expired`: `RampStepTimer = 0` (41_ramp_generator.md R172). -/
def expired (s : Regs w) : Bool := decide (s.rampTimer = 0)

/-- The test of COMM_DUE in the `COUNTED` model: `TickCounter >= CommutationPeriod` (40_state_machine.md R136). -/
def counterReached (s : Regs w) : Bool := decide (s.period ≤ s.tickCounter)

end Sys2Proof.Machine
end

