-- ==== Sys2Proof/Machine/Ramp.lean ====
section
/-! DEFINITION. The ramp generator (41_ramp_generator.md). -/

namespace Sys2Proof.Machine

variable {w : Nat}

/-- RAMP_STEP_FIXED (R171). -/
def rampStepFixed (s : Regs w) : Regs w := s.setPeriod (s.period - 1)

/-- RAMP_STEP_GEOMETRIC (R172). -/
def rampStepGeometric (c : Cfg w) (s : Regs w) : Regs w :=
  if expired s then
    let s := s.setRampInterval (halveInterval c s.rampInterval)
    let s := s.setRampTimer s.rampInterval
    s.setPeriod (s.period - 1)
  else s.setRampTimer (s.rampTimer - 1)

/-- RAMP_STEP (R170). -/
def rampStep (c : Cfg w) (s : Regs w) : Regs w :=
  match c.rampMode with
  | .fixed => rampStepFixed s
  | .geometric => rampStepGeometric c s

end Sys2Proof.Machine
end

