-- ==== Sys2Proof/Machine/StateMachine.lean ====
section
/-! DEFINITION. The commutation state machine (40_state_machine.md): START, TICK and its phases, and the meanings of the
commands NOP, TICK, STOP and of the two reserved opcodes. -/

namespace Sys2Proof.Machine

variable {w : Nat}

/-- START (R140, R144 item 1): refused silently when `ConfigValid` is false (60_exceptions.md R262). -/
def start (c : Cfg w) (s : Regs w) : Regs w :=
  if configValid c then
    ((((s.setMotorState .rampup).setPeriod c.loSpdTm).setRampTimer c.rampStepTmStart).setRampInterval
      c.rampStepTmStart).setTickCounter 0
  else s

/-- TICK_OFF (R132). -/
def tickOff (c : Cfg w) (s : Regs w) : Regs w :=
  ((((s.setDuty 0).setPeriod c.loSpdTm).setRampTimer c.rampStepTmStart).setRampInterval
    c.rampStepTmStart).setTickCounter 0

/-- TICK_RAMP (R133). -/
def tickRamp (c : Cfg w) (s : Regs w) : Regs w := rampStep c (s.setDuty c.rampDc)

/-- TICK_HANDOFF (R134). -/
def tickHandoff (c : Cfg w) (s : Regs w) : Regs w := (s.setMotorState .on).setDuty (runDuty c s)

/-- TICK_ON (R135). -/
def tickOn (c : Cfg w) (s : Regs w) : Regs w := if c.manualMode then s.setDuty s.manualDuty else s

/-- Phase 1 of TICK (R131): the state-specific logic, on the `MotorState` TICK begins with. -/
def tickLogic (c : Cfg w) (s : Regs w) : Regs w :=
  match s.motorState with
  | .off => tickOff c s
  | .rampup => if ramping c s then tickRamp c s else tickHandoff c s
  | .on => tickOn c s

/-- COMM_DUE in the `COUNTED` model (R136): the registers it leaves and `due`. -/
def commDueCounted (s : Regs w) : Regs w × Bool :=
  match s.motorState with
  | .off => (s, false)
  | _ =>
    let s := s.setTickCounter (s.tickCounter + 1)
    if counterReached s then (s.setTickCounter 0, true) else (s, false)

/-- COMM_DUE in the `REPROGRAM` model (R137). -/
def commDueReprogram (s : Regs w) : Regs w × Bool := (s, true)

/-- COMM_DUE (R136, R137). -/
def commDue (c : Cfg w) (s : Regs w) : Regs w × Bool :=
  match c.tickModel with
  | .counted => commDueCounted s
  | .reprogram => commDueReprogram s

/-- COMM_STEP (R138). -/
def commStep (s : Regs w) : Regs w := if s.duty = 0 then s else s.setSector (nextSector s.sector)

/-- Phase 2 of TICK (R131): the commutation step, if due. -/
def tickCommutate (c : Cfg w) (s : Regs w) : Regs w :=
  if (commDue c s).2 then commStep (commDue c s).1 else (commDue c s).1

/-- The SetTickPeriod of phase 3 (R131, R137): in the `REPROGRAM` model only. -/
def announcePeriod (c : Cfg w) (s : Regs w) : Regs w :=
  match c.tickModel with
  | .counted => s
  | .reprogram => emit (.setTickPeriod s.period) s

/-- TICK (R131): state logic, commutation, outputs. -/
def tick (c : Cfg w) (s : Regs w) : Regs w := updateOutputs c (announcePeriod c (tickCommutate c (tickLogic c s)))

/-- A run of `n` TICKs with no other command between them (R144 items 2 and 4; `TICK * n` of 30_encoding.md R106). -/
def runTicks (c : Cfg w) : Nat → Regs w → Regs w
  | 0, s => s
  | n + 1, s => tick c (runTicks c n s)

/-- STOP (R139, R144 item 3). -/
def stop (s : Regs w) : Regs w := (s.setMotorState .off).setDuty 0

/-! ### Meanings -/

/-- NOP (R141). -/
def execNop (s : State) : Host.Outcome State Fault Refusal := .next s

/-- TICK (R131). -/
def execTick (s : State) : Host.Outcome State Fault Refusal := .next (s.update tick)

/-- STOP (R139). -/
def execStop (s : State) : Host.Outcome State Fault Refusal := .next (s.update fun _ r => stop r)

/-- Opcode 6 executes as NOP (30_encoding.md R104). -/
def execReserved6 (s : State) : Host.Outcome State Fault Refusal := .next s

/-- Opcode 7 executes as NOP (30_encoding.md R104). -/
def execReserved7 (s : State) : Host.Outcome State Fault Refusal := .next s

end Sys2Proof.Machine
end

