-- ==== Sys2Proof/Machine/SpeedAdjust.lean ====
section
/-! DEFINITION. The speed-adjustment interface (44_speed_adjust.md): the meanings of SPEED_INC, SPEED_DEC and
SET_MANUAL_DUTY. -/

namespace Sys2Proof.Machine

variable {w : Nat}

/-- SPEED_INC (R240): shortens the period by 1, not below `MAX_SPD_TM`. -/
def speedInc (c : Cfg w) (s : Regs w) : Regs w :=
  match s.motorState with
  | .off => start c s
  | .rampup => s
  | .on => if c.maxSpdTm < s.period then s.setPeriod (s.period - 1) else s

/-- SPEED_DEC (R241): lengthens the period by 1, not above `BLDC_OL_TM_LO_SPD`. -/
def speedDec (c : Cfg w) (s : Regs w) : Regs w :=
  match s.motorState with
  | .off => start c s
  | .rampup => s
  | .on => if s.period < c.loSpdTm then s.setPeriod (s.period + 1) else s

/-- SET_MANUAL_DUTY (R242). -/
def setManualDuty (value : BitVec w) (c : Cfg w) (s : Regs w) : Regs w := s.setManualDuty (clampDuty c value)

/-- The meaning of SPEED_INC (R240). -/
def execSpeedInc (s : State) : Host.Outcome State Fault Refusal := .next (s.update speedInc)

/-- The meaning of SPEED_DEC (R241). -/
def execSpeedDec (s : State) : Host.Outcome State Fault Refusal := .next (s.update speedDec)

/-- The meaning of SET_MANUAL_DUTY (R242). -/
def execSetManualDuty (value : Word) (s : State) : Host.Outcome State Fault Refusal := .next (s.update (setManualDuty value))

end Sys2Proof.Machine
end

