-- ==== Sys2Proof/Machine/Dispatch.lean ====
section
/-! DEFINITION. The dispatch: one arm for each constructor of `Instr`. -/

namespace Sys2Proof.Machine

def exec (i : Instr) (s : State) : Host.Outcome State Fault Refusal :=
  match i with
  | .nop => Sys2Proof.Machine.execNop s
  | .tick => Sys2Proof.Machine.execTick s
  | .stop => Sys2Proof.Machine.execStop s
  | .speedInc => Sys2Proof.Machine.execSpeedInc s
  | .speedDec => Sys2Proof.Machine.execSpeedDec s
  | .setManualDuty value => Sys2Proof.Machine.execSetManualDuty value s
  | .reserved6 => Sys2Proof.Machine.execReserved6 s
  | .reserved7 => Sys2Proof.Machine.execReserved7 s
  | .disableAll => Sys2Proof.Machine.execDisableAll s
  | .config ch pwmEn level width => Sys2Proof.Machine.execConfig ch pwmEn level width s
  | .enableSet mask => Sys2Proof.Machine.execEnableSet mask s
  | .setTickPeriod value => Sys2Proof.Machine.execSetTickPeriod value s
  | .motorStateOff => Sys2Proof.Machine.execMotorStateOff s
  | .motorStateRampup => Sys2Proof.Machine.execMotorStateRampup s
  | .motorStateOn => Sys2Proof.Machine.execMotorStateOn s
  | .motorStateReserved3 => Sys2Proof.Machine.execMotorStateReserved3 s
  | .phaseOff => Sys2Proof.Machine.execPhaseOff s
  | .phaseFloat => Sys2Proof.Machine.execPhaseFloat s
  | .phaseDriveHigh => Sys2Proof.Machine.execPhaseDriveHigh s
  | .phaseDriveLow => Sys2Proof.Machine.execPhaseDriveLow s
  | .phasePwmPlus => Sys2Proof.Machine.execPhasePwmPlus s
  | .phasePwmMinus => Sys2Proof.Machine.execPhasePwmMinus s
  | .phaseReserved6 => Sys2Proof.Machine.execPhaseReserved6 s
  | .phaseReserved7 => Sys2Proof.Machine.execPhaseReserved7 s
  | .asymRail0 => Sys2Proof.Machine.execAsymRail0 s
  | .asymRail1 => Sys2Proof.Machine.execAsymRail1 s
  | .asymRail2 => Sys2Proof.Machine.execAsymRail2 s
  | .asymRail3 => Sys2Proof.Machine.execAsymRail3 s
  | .asymRail4 => Sys2Proof.Machine.execAsymRail4 s
  | .asymRail5 => Sys2Proof.Machine.execAsymRail5 s
  | .symCompl0 => Sys2Proof.Machine.execSymCompl0 s
  | .symCompl1 => Sys2Proof.Machine.execSymCompl1 s
  | .symCompl2 => Sys2Proof.Machine.execSymCompl2 s
  | .symCompl3 => Sys2Proof.Machine.execSymCompl3 s
  | .symCompl4 => Sys2Proof.Machine.execSymCompl4 s
  | .symCompl5 => Sys2Proof.Machine.execSymCompl5 s

end Sys2Proof.Machine
end

