-- ==== Sys2Proof/Machine/Port.lean ====
section
/-! DEFINITION. The port front end: the arbitration of simultaneous requests (60_exceptions.md R264), the acceptance of one
input, and what stands for a word of the opcode table at the ports. -/

namespace Sys2Proof.Machine

/-- The command words of a set of simultaneous requests, in the order of R264; a speed request is dropped where a STOP is
among them. -/
def arbitrate {w : Nat} (r : Requests) : List (BitVec (w + 3)) :=
  (if r.stop then [cmdWord 0 2] else [])
    ++ (match r.setManualDuty with
        | some n => [cmdWord (saturateOperand n) 5]
        | none => [])
    ++ (if r.speedInc && !r.stop then [cmdWord 0 3] else [])
    ++ (if r.speedDec && !r.stop then [cmdWord 0 4] else [])
    ++ (if r.tick then [cmdWord 0 1] else [])

/-- The row of a data word, where there is one (log entry 7). -/
def decodeData : DataWord → Except DecodeError Instr
  | .mstate w => .ok (decodeMState w)
  | .pcs w => .ok (decodePcs w)
  | .sect w => decodeSect w

/-- No input: "Between commands the core does nothing" (60_exceptions.md R281). -/
def idle (s : State) : State := s

/-- Evaluate a data word: its row runs. A `SECT` word that is no row of the opcode table still denotes the triple of
30_encoding.md R94 (log entry 7). -/
def evalData (d : DataWord) (s : State) : Host.Outcome State Fault Refusal :=
  match d with
  | .mstate w => exec (decodeMState w) s
  | .pcs w => exec (decodePcs w) s
  | .sect w =>
    match decodeSect w with
    | .ok i => exec i s
    | .error _ => .next (evalEntry w s)

/-- Accept one input; `s` has the inputs after it. RESET comes from the port `rst` (R290); a command word is decoded and
executed whole (R70, R101); simultaneous requests are replaced by their arbitrated commands (R264). -/
def accept (item : PortInput) (s : State) : Host.Outcome State Fault Refusal :=
  match item with
  | .rst => .next (s.update fun _ => resetRegisters)
  | .cmd w => exec (decodeCmd w) s
  | .requests r => .next (s.setInputs ((arbitrate r).map .cmd ++ s.inputs))
  | .eval d => evalData d s

/-- The input that presents a table word of `nbits` bits (log entry 11); none where no port can carry it. -/
def tableInput (nbits w : Nat) : Option PortInput :=
  match tableFormat nbits with
  | .sect => if w < 2 ^ 9 then some (.eval (.sect (BitVec.ofNat 9 w))) else none
  | .pcs => if w < 2 ^ 3 then some (.eval (.pcs (BitVec.ofNat 3 w))) else none
  | _ => if w < 2 ^ 19 then some (.cmd (BitVec.ofNat 19 w)) else none

/-- Present a table word as the next input. -/
def presentTableWord (s : State) (nbits w : Nat) : State :=
  match tableInput nbits w with
  | some item => s.setInputs (item :: s.inputs)
  | none => s

end Sys2Proof.Machine
end

