-- ==== Sys2Proof/Machine/Ports.lean ====
section
/-! DEFINITION. The output ports (10_state.md R33): functions of the state, read without effect (60_exceptions.md R280). In
the three-bit ports bit 0 is A, bit 1 is B, bit 2 is C. -/

namespace Sys2Proof.Machine

variable {w : Nat}

/-- Three Booleans as a mask. -/
def mask3 (a b c : Bool) : BitVec 3 := BitVec.ofBool c ++ BitVec.ofBool b ++ BitVec.ofBool a

/-- `out_drv_en`. -/
def portDrvEn (s : Regs w) : BitVec 3 := mask3 s.out.a.drvEn s.out.b.drvEn s.out.c.drvEn

/-- `out_pwm_en`. -/
def portPwmEn (s : Regs w) : BitVec 3 := mask3 s.out.a.pwmEn s.out.b.pwmEn s.out.c.pwmEn

/-- `out_level`. -/
def portLevel (s : Regs w) : BitVec 3 := mask3 s.out.a.level s.out.b.level s.out.c.level

/-- `out_width_a`, `out_width_b`, `out_width_c`. -/
def portWidth (s : Regs w) (ch : Channel) : BitVec w := (s.out.get ch).width

/-- `out_pol`: constant 0 (R30). -/
def portPol (_s : Regs w) : BitVec 3 := polarityPattern

/-- `motor_state`. -/
def portMotorState (s : Regs w) : BitVec 2 := motorStateCode s.motorState

/-- `sector`. -/
def portSector (s : Regs w) : BitVec 3 := s.sector

/-- `duty`. -/
def portDuty (s : Regs w) : BitVec w := s.duty

/-- `period`. -/
def portPeriod (s : Regs w) : BitVec w := s.period

/-- `cfg_ok`: `ConfigValid(Cfg)` (R32, R33). -/
def portCfgOk (c : Cfg w) : Bool := configValid c

/-- The words presented at `dir`, in emission order, one for each directive (R33, R115; for `W` below 3 log entry 21). -/
def portDir (s : Regs w) : List (BitVec (w + 6)) := s.directives.map dirWord

end Sys2Proof.Machine
end

