-- ==== Sys2Proof/Machine/CommandStep.lean ====
section
/-! DEFINITION. A step of the core proper (00_scope.md R13): a function of a command word and the registers, with `W` and
`Cfg` as its arguments (R8, 20_memory.md R75), for any `W`. -/

namespace Sys2Proof.Machine

/-- The opcode of a command word (30_encoding.md R101). -/
def cmdOpcode {w : Nat} (cmd : BitVec (w + 3)) : BitVec 3 := cmd.extractLsb' 0 3

/-- The operand of a command word (30_encoding.md R101, R102). -/
def cmdOperand {w : Nat} (cmd : BitVec (w + 3)) : BitVec w := cmd.extractLsb' 3 w

/-- One step of the core: the opcode map (R103, R104) over the commands' rules. The directives it emits are those it appends
to the stream. -/
def coreStep {w : Nat} (c : Cfg w) (cmd : BitVec (w + 3)) (s : Regs w) : Regs w :=
  match (cmdOpcode cmd).toNat with
  | 1 => tick c s
  | 2 => stop s
  | 3 => speedInc c s
  | 4 => speedDec c s
  | 5 => setManualDuty (cmdOperand cmd) c s
  | _ => s

/-- A program: command words, first to last (R106). -/
def coreRun {w : Nat} (c : Cfg w) : List (BitVec (w + 3)) → Regs w → Regs w
  | [], s => s
  | cmd :: cmds, s => coreRun c cmds (coreStep c cmd s)

end Sys2Proof.Machine
end

