-- ==== Sys2Proof/Safety.lean ====
section
/-! DEFINITION. What counts as a safe run: the invariants I1 to I8 of the reachable states (10_state.md R34) and the safety
invariant of the directive stream (43_phase_encoder.md R222), the ramp length (41_ramp_generator.md R174) and the four
properties of the state machine (40_state_machine.md R144). -/

namespace Sys2Proof

open Sys2Proof.Machine

/-- I1 (R34): the sector is in 0 to 5; `MotorState` has three values by its type. -/
abbrev invSector (s : State) : Prop := s.sector.toNat ≤ 5

/-- I2 (R34): the duty target and the manual duty are below `PWM_PERIOD`. -/
abbrev invDuty (s : State) : Prop := s.duty < s.cfg.pwmPeriod ∧ s.manualDuty < s.cfg.pwmPeriod

/-- I3 (R34): OFF has a zero duty target. -/
abbrev invOff (s : State) : Prop := s.motorState = .off → s.duty = 0

/-- I4 (R34): the period while ramping. -/
abbrev invRampup (s : State) : Prop :=
  s.motorState = .rampup → s.cfg.handoffTm ≤ s.period ∧ s.period ≤ s.cfg.loSpdTm

/-- I5 (R34): the period while ON. -/
abbrev invOn (s : State) : Prop := s.motorState = .on → s.cfg.maxSpdTm ≤ s.period ∧ s.period ≤ s.cfg.loSpdTm

/-- I6 (R34), the part that holds of every reachable state. -/
abbrev invCounter (s : State) : Prop :=
  (s.cfg.tickModel = .counted → s.tickCounter < s.cfg.loSpdTm) ∧ (s.cfg.tickModel = .reprogram → s.tickCounter = 0)

/-- I6 (R34), the part claimed of the state a TICK leaves. -/
abbrev counterBelowPeriod (s : State) : Prop :=
  s.cfg.tickModel = .counted → s.motorState ≠ .off → s.tickCounter < s.period

/-- I7 (R34): the ramp registers while not OFF. -/
abbrev invRamp (s : State) : Prop :=
  s.motorState ≠ .off →
    s.cfg.rampStepTmMin ≤ s.rampInterval ∧ s.rampInterval ≤ s.cfg.rampStepTmStart ∧ s.rampTimer ≤ s.rampInterval

/-- I8 (R34): every output record is ENCODE of some phase state at some duty below `PWM_PERIOD`, and its width does not
exceed `PWM_PERIOD`. -/
def invOut (s : State) : Prop :=
  ∀ ch, (∃ q d, d < s.cfg.pwmPeriod ∧ s.out.get ch = encodePhase s.cfg.pwmPeriod d q)
    ∧ (s.out.get ch).width ≤ s.cfg.pwmPeriod

/-- I1 to I8 (R34), for a valid configuration. -/
structure Inv (s : State) : Prop where
  valid : configValid s.cfg = true
  sector : invSector s
  duty : invDuty s
  off : invOff s
  rampup : invRampup s
  on : invOn s
  counter : invCounter s
  ramp : invRamp s
  out : invOut s

/-- A stream of whole brackets (R222 a, b): DisableAll, Config A, Config B, Config C, EnableSet, one after the other, with
SetTickPeriod directives between brackets only. -/
def bracketed {w : Nat} : List (Directive w) → Bool
  | [] => true
  | .setTickPeriod _ :: ds => bracketed ds
  | .disableAll :: .config .a _ _ _ :: .config .b _ _ _ :: .config .c _ _ _ :: .enableSet _ :: ds => bracketed ds
  | _ => false

/-- No channel is driven. -/
abbrev undriven {w : Nat} (o : Outs w) : Prop := o.a.drvEn = false ∧ o.b.drvEn = false ∧ o.c.drvEn = false

/-- The intervals of the geometric ramp: `i_0 = RAMP_STEP_TM_START`, `i_k = max(i_(k-1) >> 1, RAMP_STEP_TM_MIN)`
(41_ramp_generator.md R174). -/
def geometricInterval {w : Nat} (c : Cfg w) : Nat → Nat
  | 0 => c.rampStepTmStart.toNat
  | k + 1 => max (geometricInterval c k / 2) c.rampStepTmMin.toNat

/-- The TICKs that the first `n` decrements of the geometric ramp take: the sum of `i_k + 1` for `k < n` (R174). -/
def geometricTicks {w : Nat} (c : Cfg w) : Nat → Nat
  | 0 => 0
  | n + 1 => geometricTicks c n + (geometricInterval c n + 1)

/-! ### The properties of R144 -/

section
variable {w : Nat} (c : Cfg w)

/-- R144 item 1: from OFF with `ConfigValid`, one SPEED_INC gives RAMPUP at the low-speed period. -/
def startProperty : Prop :=
  ∀ s : Regs w, s.motorState = .off → configValid c = true →
    (speedInc c s).motorState = .rampup ∧ (speedInc c s).period = c.loSpdTm

/-- R144 item 2: over any run of TICKs from a ramping state at or above the hand-off threshold, while `MotorState` still
reads RAMPUP the period has not increased since any earlier TICK and is not below the threshold; the TICK that begins at the
threshold ends ON, with `RUN_DC` when `MANUAL_MODE` is false. -/
def rampProperty : Prop :=
  (∀ (s : Regs w) (m n : Nat), s.motorState = .rampup → c.handoffTm ≤ s.period → m ≤ n →
    (runTicks c n s).motorState = .rampup →
    (runTicks c n s).period ≤ (runTicks c m s).period ∧ c.handoffTm ≤ (runTicks c n s).period) ∧
  ∀ s : Regs w, s.motorState = .rampup → s.period = c.handoffTm →
    (tick c s).motorState = .on ∧ (c.manualMode = false → (tick c s).duty = c.runDc)

/-- R144 item 3: STOP from any state gives OFF and a zero duty target; the TICK after it reloads the period. -/
def stopProperty : Prop :=
  ∀ s : Regs w, (stop s).motorState = .off ∧ (stop s).duty = 0 ∧ (tick c (stop s)).period = c.loSpdTm

/-- R144 item 4: with the `FIXED` ramp, 512 and 80, after SPEED_INC exactly 432 TICKs end in RAMPUP and the 433rd ends ON. -/
def scenarioProperty : Prop :=
  ∀ s : Regs w, s.motorState = .off → configValid c = true → c.rampMode = .fixed → c.loSpdTm.toNat = 512 →
    c.handoffTm.toNat = 80 →
    (∀ k, 1 ≤ k → k ≤ 432 → (runTicks c k (speedInc c s)).motorState = .rampup) ∧
    (runTicks c 433 (speedInc c s)).motorState = .on
end

end Sys2Proof
end

