-- ==== Sys2Proof/Certificates/Slice0/Obligations.lean ====
section
/-! DEFINITION. The statements about the model, for the provers. `exec i s = .next t` says that the instruction
completes. -/

open Sys2Proof Sys2Proof.Machine

/-! ### Encoding -/

/-- Every instruction's canonical word, and its bytes, decode to it, with every operand at every value
(30_encoding.md R90 to R94, R101, R115; 20_memory.md R65). -/
def Obligations.DecodeEncodeAgree : Prop :=
  ∀ i : Instr, decodeWord i.format (encode i) = .ok i ∧ decodeBytes i.format (encodeBytes i) = .ok (i, [])

/-- The opcode map with its canonical words (R103), and operand bits ignored but for SET_MANUAL_DUTY (R101): every command
word is `operand ++ opcode`. -/
def Obligations.OpcodeMap : Prop :=
  (∀ operand : Word,
    decodeCmd (operand ++ (0 : BitVec 3)) = .nop ∧ decodeCmd (operand ++ (1 : BitVec 3)) = .tick ∧
    decodeCmd (operand ++ (2 : BitVec 3)) = .stop ∧ decodeCmd (operand ++ (3 : BitVec 3)) = .speedInc ∧
    decodeCmd (operand ++ (4 : BitVec 3)) = .speedDec ∧
    decodeCmd (operand ++ (5 : BitVec 3)) = .setManualDuty operand ∧
    decodeCmd (operand ++ (6 : BitVec 3)) = .reserved6 ∧ decodeCmd (operand ++ (7 : BitVec 3)) = .reserved7) ∧
  (∀ w : CmdWord, ∃ (operand : Word) (opcode : BitVec 3), w = operand ++ opcode) ∧
  encode .nop = 0x00000 ∧ encode .tick = 0x00001 ∧ encode .stop = 0x00002 ∧ encode .speedInc = 0x00003 ∧
  encode .speedDec = 0x00004 ∧ (∀ v : Word, encode (.setManualDuty v) = v.toNat * 8 + 5) ∧
  encode (.setManualDuty 100) = 0x00325

/-- Decoding is right on words of the spec's examples and on every code of its tables (30_encoding.md R91 to R94, R103,
R115, 42_sector_table.md R193, R194, TV1 to TV6). -/
def Obligations.ExampleWordsDecode : Prop :=
  decodeWord .cmd 0x00001 = .ok .tick ∧ decodeWord .cmd 0x00325 = .ok (.setManualDuty 100) ∧
  decodeWord .cmd 0x7FFFA = .ok .stop ∧ decodeWord .dir 0x0012D5 = .ok (.config .b true false 75) ∧
  decodeWord .dir 0x000142 = .ok (.enableSet 5) ∧ decodeWord .dir 0x008003 = .ok (.setTickPeriod 512) ∧
  decodeWord .dir 0x000C91 = .ok (.config .a true false 50) ∧ decodeWord .dir 0x003219 = .ok (.config .c true false 200) ∧
  decodeWord .dir 0x000021 = .ok (.config .a false true 0) ∧ decodeWord .dir 0x000000 = .ok .disableAll ∧
  decodeWord .dir 0x00000D = .error .reservedChannel ∧
  [0b00, 0b01, 0b10, 0b11].map (decodeWord .mstate) =
    [.ok .motorStateOff, .ok .motorStateRampup, .ok .motorStateOn, .ok .motorStateReserved3] ∧
  [0b000, 0b001, 0b010, 0b011, 0b100, 0b101, 0b110, 0b111].map (decodeWord .pcs) =
    [.ok .phaseOff, .ok .phaseFloat, .ok .phaseDriveHigh, .ok .phaseDriveLow, .ok .phasePwmPlus, .ok .phasePwmMinus,
     .ok .phaseReserved6, .ok .phaseReserved7] ∧
  [0x05C, 0x0CC, 0x0E1, 0x063, 0x10B, 0x119].map (decodeWord .sect) =
    [.ok .asymRail0, .ok .asymRail1, .ok .asymRail2, .ok .asymRail3, .ok .asymRail4, .ok .asymRail5] ∧
  [0x06C, 0x14C, 0x161, 0x065, 0x10D, 0x129].map (decodeWord .sect) =
    [.ok .symCompl0, .ok .symCompl1, .ok .symCompl2, .ok .symCompl3, .ok .symCompl4, .ok .symCompl5]

/-! ### The step -/

/-- A step runs the decoded command, on the state with the remaining inputs (10_state.md R33, 20_memory.md R70): it is the
core's step, which takes the configuration as its argument (20_memory.md R75, 00_scope.md R13), at `W = 16`, and changes
nothing of the state but the registers. -/
def Obligations.StepRunsDecodedCommand : Prop :=
  ∀ (s : State) (w : CmdWord) (rest : List PortInput), s.inputs = .cmd w :: rest →
    step s = exec (decodeCmd w) (s.setInputs rest) ∧
    step s = .next { s with toRegs := coreStep s.cfg w s.toRegs, inputs := rest }

/-- A table word of 24 bits that fits the command port is what the next step runs, and so is one of 8 bits that fits a phase
code and one of 16 bits that is an entry of a default table (the model's own reading of the table, log entry 11). -/
def Obligations.PresentedWordRuns : Prop :=
  (∀ (s : State) (w : Nat), w < 2 ^ 19 →
    ∃ i, decodeTableWord 24 w = some i ∧ step (s.withFetchWord 24 w) = exec i s) ∧
  (∀ (s : State) (w : Nat), w < 2 ^ 3 →
    ∃ i, decodeTableWord 8 w = some i ∧ step (s.withFetchWord 8 w) = exec i s) ∧
  ∀ (s : State) (w : SectWord) (i : Instr), decodeSect w = .ok i →
    decodeTableWord 16 w.toNat = some i ∧ step (s.withFetchWord 16 w.toNat) = exec i s

/-- With nothing presented the core does nothing (60_exceptions.md R281). -/
def Obligations.IdleWithoutInput : Prop := ∀ s : State, s.inputs = [] → step s = .next s

/-- A data word presented for evaluation runs its row (the model's own input, log entry 7). -/
def Obligations.StepEvaluatesDataWord : Prop :=
  ∀ (s : State) (d : DataWord) (i : Instr) (rest : List PortInput), s.inputs = .eval d :: rest → decodeData d = .ok i →
    step s = exec i (s.setInputs rest)

/-- Every entry word presented for evaluation gives the phase states of its three fields, A in the lowest bits, whether or
not it is a row of the table, by the code table of R92 (30_encoding.md R92, R94, 20_memory.md R62; the input and `result`
are the model's own, log entry 7). -/
def Obligations.EntryWordsEvaluate : Prop :=
  [0b000, 0b001, 0b010, 0b011, 0b100, 0b101, 0b110, 0b111].map phaseOfCode =
    [.off, .float, .driveHigh, .driveLow, .pwmPlus, .pwmMinus, .reserved6, .reserved7] ∧
  ∀ (s : State) (w : SectWord) (rest : List PortInput), s.inputs = .eval (.sect w) :: rest →
    step s = .next { s with
      inputs := rest
      result := some (.entry ⟨phaseOfCode (w.extractLsb' 0 3), phaseOfCode (w.extractLsb' 3 3),
        phaseOfCode (w.extractLsb' 6 3)⟩) }

/-- Every command completes, in every state, with every operand, and there is no fault (60_exceptions.md R260); so does
every step on an input of the spec's ports. -/
def Obligations.CommandsComplete : Prop :=
  (∀ _ : Fault, False) ∧
  (∀ (i : Instr) (s : State), i.format = .cmd → ∃ t, exec i s = .next t) ∧
  ∀ s : State, (∀ d rest, s.inputs ≠ .eval d :: rest) → ∃ t, step s = .next t

/-- Arbitration of simultaneous requests (60_exceptions.md R264): the commands come in the order STOP, SET_MANUAL_DUTY,
SPEED_INC, SPEED_DEC, TICK; a speed request is dropped where a STOP is among them; an operand wider than `W` bits is
saturated (30_encoding.md R102). -/
def Obligations.ArbitrationOrder : Prop :=
  ∀ r : Requests,
    (∃ v, List.Sublist ((arbitrate r).map decodeCmd) [.stop, .setManualDuty v, .speedInc, .speedDec, .tick]) ∧
    (.stop ∈ (arbitrate r).map decodeCmd ↔ r.stop = true) ∧
    (∀ v, .setManualDuty v ∈ (arbitrate r).map decodeCmd ↔ ∃ n, r.setManualDuty = some n ∧ v.toNat = min n 65535) ∧
    (.speedInc ∈ (arbitrate r).map decodeCmd ↔ r.speedInc = true ∧ r.stop = false) ∧
    (.speedDec ∈ (arbitrate r).map decodeCmd ↔ r.speedDec = true ∧ r.stop = false) ∧
    (.tick ∈ (arbitrate r).map decodeCmd ↔ r.tick = true)

/-- A step on simultaneous requests replaces them by their arbitrated commands and changes nothing else (R264, log
entry 13). -/
def Obligations.StepArbitratesRequests : Prop :=
  ∀ (s : State) (r : Requests) (rest : List PortInput), s.inputs = .requests r :: rest →
    step s = .next { s with inputs := (arbitrate r).map .cmd ++ rest }

/-! ### Reset -/

/-- The state right after reset (70_reset_and_hazards.md R290, R291); and every output port of 10_state.md R33 shows its
register in every state, for every `W`: bit 0 of a mask is A, bit 1 B, bit 2 C, `motor_state` is the code of
30_encoding.md R91, `dir` has one word of R115 for each directive, in order. The mask in EnableSet's word for `W` below 3,
which the spec leaves open, is the model's choice (log entry 21). -/
def Obligations.ResetValues : Prop :=
  State.reset.motorState = .off ∧ State.reset.sector = 0 ∧ State.reset.duty = 0 ∧ State.reset.period = 0 ∧
  State.reset.rampTimer = 0 ∧ State.reset.rampInterval = 0 ∧ State.reset.tickCounter = 0 ∧
  State.reset.manualDuty = 0 ∧ (∀ ch, State.reset.out.get ch = ⟨false, false, false, 0⟩) ∧ portPol State.reset.toRegs = 0 ∧
  State.reset.directives = [] ∧
  ∀ (w : Nat) (c : Cfg w) (s : Regs w),
    (portDrvEn s).getLsbD 0 = s.out.a.drvEn ∧ (portDrvEn s).getLsbD 1 = s.out.b.drvEn ∧
    (portDrvEn s).getLsbD 2 = s.out.c.drvEn ∧
    (portPwmEn s).getLsbD 0 = s.out.a.pwmEn ∧ (portPwmEn s).getLsbD 1 = s.out.b.pwmEn ∧
    (portPwmEn s).getLsbD 2 = s.out.c.pwmEn ∧
    (portLevel s).getLsbD 0 = s.out.a.level ∧ (portLevel s).getLsbD 1 = s.out.b.level ∧
    (portLevel s).getLsbD 2 = s.out.c.level ∧
    portWidth s .a = s.out.a.width ∧ portWidth s .b = s.out.b.width ∧ portWidth s .c = s.out.c.width ∧
    portPol s = 0 ∧
    portMotorState s = (match s.motorState with
      | .off => 0b00
      | .rampup => 0b01
      | .on => 0b10) ∧
    portSector s = s.sector ∧ portDuty s = s.duty ∧ portPeriod s = s.period ∧ portCfgOk c = configValid c ∧
    (portDir s).length = s.directives.length ∧
    ∀ d (h : d < s.directives.length), (portDir s)[d]? = some (match s.directives[d] with
      | .disableAll => 0
      | .config ch pwmEn level width => width ++ BitVec.ofBool level ++ BitVec.ofBool pwmEn ++ (match ch with
          | .a => (0 : BitVec 2)
          | .b => 1
          | .c => 2) ++ (1 : BitVec 2)
      | .enableSet mask => mask.setWidth w ++ (2 : BitVec 6)
      | .setTickPeriod value => value ++ (3 : BitVec 6))

/-- The reset port puts every register to its reset value, in every state, and emits nothing (R290); `Cfg` is not affected,
and the model's own fields stay (log entries 5, 6, 7). -/
def Obligations.ResetPort : Prop :=
  ∀ (s : State) (rest : List PortInput), s.inputs = .rst :: rest →
    step s = .next { State.reset with cfg := s.cfg, inputs := rest, directives := s.directives, result := s.result }

/-! ### The commands other than TICK -/

/-- NOP and the two reserved opcodes change nothing (40_state_machine.md R141, 30_encoding.md R104). -/
def Obligations.NopAndReserved : Prop :=
  ∀ s : State, exec .nop s = .next s ∧ exec .reserved6 s = .next s ∧ exec .reserved7 s = .next s

/-- STOP writes `MotorState` and `DutyCycleTarget` and nothing else, from every state; the TICK after it returns
`CommutationPeriod` to the low-speed starting value (40_state_machine.md R139). -/
def Obligations.StopEffect : Prop :=
  ∀ s : State, exec .stop s = .next { s with motorState := .off, duty := 0 } ∧
    ∃ t, exec .tick { s with motorState := .off, duty := 0 } = .next t ∧ t.period = s.cfg.loSpdTm

/-- SPEED_INC (44_speed_adjust.md R240), with START (40_state_machine.md R140). -/
def Obligations.SpeedIncEffect : Prop :=
  ∀ s : State,
    (s.motorState = .off → configValid s.cfg = true →
      exec .speedInc s = .next { s with motorState := .rampup, period := s.cfg.loSpdTm, rampTimer := s.cfg.rampStepTmStart,
                                        rampInterval := s.cfg.rampStepTmStart, tickCounter := 0 }) ∧
    (s.motorState = .off → configValid s.cfg = false → exec .speedInc s = .next s) ∧
    (s.motorState = .rampup → exec .speedInc s = .next s) ∧
    (s.motorState = .on → s.period ≤ s.cfg.maxSpdTm → exec .speedInc s = .next s) ∧
    (s.motorState = .on → s.cfg.maxSpdTm < s.period →
      ∃ p, exec .speedInc s = .next { s with period := p } ∧ p.toNat = s.period.toNat - 1)

/-- SPEED_DEC (44_speed_adjust.md R241), with START (40_state_machine.md R140). -/
def Obligations.SpeedDecEffect : Prop :=
  ∀ s : State,
    (s.motorState = .off → configValid s.cfg = true →
      exec .speedDec s = .next { s with motorState := .rampup, period := s.cfg.loSpdTm, rampTimer := s.cfg.rampStepTmStart,
                                        rampInterval := s.cfg.rampStepTmStart, tickCounter := 0 }) ∧
    (s.motorState = .off → configValid s.cfg = false → exec .speedDec s = .next s) ∧
    (s.motorState = .rampup → exec .speedDec s = .next s) ∧
    (s.motorState = .on → s.cfg.loSpdTm ≤ s.period → exec .speedDec s = .next s) ∧
    (s.motorState = .on → s.period < s.cfg.loSpdTm →
      ∃ p, exec .speedDec s = .next { s with period := p } ∧ p.toNat = s.period.toNat + 1)

/-- SET_MANUAL_DUTY stores `min(value, PWM_PERIOD - 1)` in every state and changes nothing else (44_speed_adjust.md
R242). -/
def Obligations.SetManualDutyEffect : Prop :=
  ∀ (s : State) (v : Word), s.cfg.pwmPeriod ≠ 0 →
    ∃ d, exec (.setManualDuty v) s = .next { s with manualDuty := d } ∧ d.toNat = min v.toNat (s.cfg.pwmPeriod.toNat - 1)

/-- For `PWM_PERIOD = 0`, outside `ConfigValid`, the subtraction of the clamp wraps, so the operand is stored as it is
(00_scope.md R14, the spec's own decision D12; log entry 15). -/
def Obligations.SetManualDutyZeroPeriod : Prop :=
  ∀ (s : State) (v : Word), s.cfg.pwmPeriod = 0 → exec (.setManualDuty v) s = .next { s with manualDuty := v }

/-- The frame of the commands other than TICK: outputs, stream, sector, configuration, inputs and result stay; the speed
commands leave both duties alone; STOP leaves the period, the ramp registers, the counter and the manual duty alone;
SET_MANUAL_DUTY leaves every register but `ManualDuty` alone (10_state.md R37). -/
def Obligations.CommandFrame : Prop :=
  ∀ (i : Instr) (s t : State), i.format = .cmd → i ≠ .tick → exec i s = .next t →
    t.out = s.out ∧ t.directives = s.directives ∧ t.sector = s.sector ∧ t.cfg = s.cfg ∧ t.inputs = s.inputs ∧
    t.result = s.result ∧ (i ≠ .stop → t.duty = s.duty) ∧ ((∀ v, i ≠ .setManualDuty v) → t.manualDuty = s.manualDuty) ∧
    (i ≠ .speedInc → i ≠ .speedDec → t.period = s.period ∧ t.rampTimer = s.rampTimer ∧
      t.rampInterval = s.rampInterval ∧ t.tickCounter = s.tickCounter) ∧
    (i ≠ .stop → i ≠ .speedInc → i ≠ .speedDec → t.motorState = s.motorState)

/-! ### TICK -/

/-- TICK in OFF (40_state_machine.md R131, R132, 42_sector_table.md R191, 70_reset_and_hazards.md R300): the reloads, the
sector and the manual duty kept, the outputs off, at most one SetTickPeriod and one bracket emitted. -/
def Obligations.TickInOff : Prop :=
  ∀ s : State, s.motorState = .off →
    exec .tick s = .next { s with
      duty := 0, period := s.cfg.loSpdTm, rampTimer := s.cfg.rampStepTmStart, rampInterval := s.cfg.rampStepTmStart,
      tickCounter := 0, out := ⟨⟨false, false, false, 0⟩, ⟨false, false, false, 0⟩, ⟨false, false, false, 0⟩⟩,
      directives := s.directives ++
        (if s.cfg.tickModel = .reprogram then [.setTickPeriod s.cfg.loSpdTm] else []) ++
        (if s.out = ⟨⟨false, false, false, 0⟩, ⟨false, false, false, 0⟩, ⟨false, false, false, 0⟩⟩ then []
         else [.disableAll, .config .a false false 0, .config .b false false 0, .config .c false false 0,
               .enableSet 0]) }

/-- The ramping arm in `FIXED` mode (40_state_machine.md R133, 41_ramp_generator.md R171). -/
def Obligations.TickRampFixed : Prop :=
  ∀ s : State, s.motorState = .rampup → s.cfg.handoffTm < s.period → s.cfg.rampMode = .fixed →
    ∃ t, exec .tick s = .next t ∧ t.motorState = .rampup ∧ t.duty = s.cfg.rampDc ∧
      t.period.toNat = s.period.toNat - 1 ∧ t.rampTimer = s.rampTimer ∧ t.rampInterval = s.rampInterval

/-- The ramping arm in `GEOMETRIC` mode (40_state_machine.md R133, 41_ramp_generator.md R172): at 0 the interval is halved
with its floor, the timer reloaded and the period decremented; else the timer counts down and the period holds. -/
def Obligations.TickRampGeometric : Prop :=
  ∀ s : State, s.motorState = .rampup → s.cfg.handoffTm < s.period → s.cfg.rampMode = .geometric →
    ∃ t, exec .tick s = .next t ∧ t.motorState = .rampup ∧ t.duty = s.cfg.rampDc ∧
      (s.rampTimer = 0 → t.period.toNat = s.period.toNat - 1 ∧ t.rampTimer = t.rampInterval ∧
        t.rampInterval.toNat = max (s.rampInterval.toNat / 2) s.cfg.rampStepTmMin.toNat) ∧
      (s.rampTimer ≠ 0 → t.period = s.period ∧ t.rampInterval = s.rampInterval ∧
        t.rampTimer.toNat = s.rampTimer.toNat - 1)

/-- The hand-off arm (40_state_machine.md R134). -/
def Obligations.TickHandoff : Prop :=
  ∀ s : State, s.motorState = .rampup → s.period ≤ s.cfg.handoffTm →
    ∃ t, exec .tick s = .next t ∧ t.motorState = .on ∧
      t.duty = (if s.cfg.manualMode then s.manualDuty else s.cfg.runDc) ∧ t.period = s.period ∧
      t.rampTimer = s.rampTimer ∧ t.rampInterval = s.rampInterval

/-- The ON arm (40_state_machine.md R135). -/
def Obligations.TickInOn : Prop :=
  ∀ s : State, s.motorState = .on →
    ∃ t, exec .tick s = .next t ∧ t.motorState = .on ∧
      t.duty = (if s.cfg.manualMode then s.manualDuty else s.duty) ∧ t.period = s.period ∧
      t.rampTimer = s.rampTimer ∧ t.rampInterval = s.rampInterval

/-- COMM_DUE and COMM_STEP in the `COUNTED` model (40_state_machine.md R136, R138): in OFF nothing is counted and the sector
holds (the spec's own choice D29); else the counter counts up, and where it reaches or exceeds the period phase 1 left
(`>=`, the spec's own choice D29) it is cleared and the sector advances if the duty is not 0. The advance from the sector
codes 6 and 7, which no run reaches, is the model's reading (log entry 9). -/
def Obligations.CommutationCounted : Prop :=
  ∀ s : State, s.cfg.tickModel = .counted →
    ∃ t, exec .tick s = .next t ∧
      (s.motorState = .off → t.tickCounter = 0 ∧ t.sector = s.sector) ∧
      (s.motorState ≠ .off → t.period ≤ s.tickCounter + 1 → t.tickCounter = 0 ∧
        t.sector.toNat = if t.duty = 0 then s.sector.toNat else (s.sector.toNat + 1) % 6) ∧
      (s.motorState ≠ .off → ¬ t.period ≤ s.tickCounter + 1 → t.tickCounter = s.tickCounter + 1 ∧ t.sector = s.sector)

/-- COMM_DUE and COMM_STEP in the `REPROGRAM` model (40_state_machine.md R137, R138): every TICK is due and announces the
period phase 1 left, before any bracket; the counter is only ever cleared, in OFF. The advance from the sector codes 6 and
7, which no run reaches, is the model's reading (log entry 9). -/
def Obligations.CommutationReprogram : Prop :=
  ∀ s : State, s.cfg.tickModel = .reprogram →
    ∃ t, exec .tick s = .next t ∧
      (t.sector.toNat = if t.duty = 0 then s.sector.toNat else (s.sector.toNat + 1) % 6) ∧
      (t.tickCounter = if s.motorState = .off then 0 else s.tickCounter) ∧
      ∃ ds, t.directives = s.directives ++ .setTickPeriod t.period :: ds ∧ ∀ d ∈ ds, ∀ v, d ≠ .setTickPeriod v

/-- UPDATE_OUTPUTS (43_phase_encoder.md R220, R221): the outputs a TICK leaves are the encoded table entry of the new
sector, all off for a zero duty, and what it emits after the announcement is one bracket if the outputs change and nothing
if they do not. -/
def Obligations.TickOutputs : Prop :=
  ∀ s : State, ∃ t, exec .tick s = .next t ∧
    t.out = encodePhases s.cfg.pwmPeriod t.duty
      (if t.duty = 0 then ⟨.off, .off, .off⟩ else tableRead s.cfg.sectorTable t.sector) ∧
    t.directives = s.directives ++
      (if s.cfg.tickModel = .reprogram then [.setTickPeriod t.period] else []) ++
      (if t.out = s.out then [] else
        [.disableAll,
         .config .a t.out.a.pwmEn t.out.a.level t.out.a.width,
         .config .b t.out.b.pwmEn t.out.b.level t.out.b.width,
         .config .c t.out.c.pwmEn t.out.c.level t.out.c.width,
         .enableSet (BitVec.ofBool t.out.c.drvEn ++ BitVec.ofBool t.out.b.drvEn ++ BitVec.ofBool t.out.a.drvEn)])

/-- The frame of TICK (10_state.md R37): it never writes the manual duty, the configuration, the inputs or the result. -/
def Obligations.TickFrame : Prop :=
  ∀ s : State, ∃ t, exec .tick s = .next t ∧ t.manualDuty = s.manualDuty ∧ t.cfg = s.cfg ∧ t.inputs = s.inputs ∧
    t.result = s.result

/-! ### Directives -/

/-- The directives' effects on `Out`, and their emission (30_encoding.md R111 to R113, 00_scope.md R12): nothing else
changes. -/
def Obligations.DirectiveEffects : Prop :=
  ∀ s : State,
    exec .disableAll s = .next { s with
      out := ⟨{ s.out.a with drvEn := false }, { s.out.b with drvEn := false }, { s.out.c with drvEn := false }⟩
      directives := s.directives ++ [.disableAll] } ∧
    (∀ ch p l w, ∃ t, exec (.config ch p l w) s = .next t ∧
      t = { s with out := t.out, directives := s.directives ++ [.config ch p l w] } ∧
      t.out.get ch = { s.out.get ch with pwmEn := p, level := l, width := w } ∧
      ∀ ch', ch' ≠ ch → t.out.get ch' = s.out.get ch') ∧
    ∀ mask : BitVec 3, exec (.enableSet mask) s = .next { s with
      out := ⟨{ s.out.a with drvEn := mask.getLsbD 0 }, { s.out.b with drvEn := mask.getLsbD 1 },
              { s.out.c with drvEn := mask.getLsbD 2 }⟩
      directives := s.directives ++ [.enableSet mask] }

/-- SetTickPeriod writes no register; it is emitted (30_encoding.md R114). -/
def Obligations.SetTickPeriodEffect : Prop :=
  ∀ (s : State) (v : Word),
    exec (.setTickPeriod v) s = .next { s with directives := s.directives ++ [.setTickPeriod v] }

/-! ### ENCODE and the table -/

/-- ENCODE of the states whose width is not complemented, for every `W` and every duty (43_phase_encoder.md R211 to
R214). -/
def Obligations.EncodeTable : Prop :=
  ∀ (w : Nat) (p d : BitVec w),
    encodePhase p d .off = ⟨false, false, false, 0⟩ ∧ encodePhase p d .float = ⟨false, false, false, 0⟩ ∧
    encodePhase p d .reserved6 = ⟨false, false, false, 0⟩ ∧ encodePhase p d .reserved7 = ⟨false, false, false, 0⟩ ∧
    encodePhase p d .driveHigh = ⟨true, false, true, 0⟩ ∧ encodePhase p d .driveLow = ⟨true, false, false, 0⟩ ∧
    encodePhase p d .pwmPlus = ⟨true, true, false, d⟩

/-- ENCODE of `PwmMinus`, and the widths of `PwmPlus` and `PwmMinus` sum to the PWM period (43_phase_encoder.md R215,
R216). -/
def Obligations.ComplementaryWidths : Prop :=
  ∀ (w : Nat) (p d : BitVec w), d < p →
    ∃ v, encodePhase p d .pwmMinus = ⟨true, true, false, v⟩ ∧ v.toNat = p.toNat - d.toNat ∧
      (encodePhase p d .pwmPlus).width.toNat + v.toNat = p.toNat ∧
      ((encodePhase p d .pwmPlus).width = v ↔ p.toNat = 2 * d.toNat)

/-- The rows of the phase states evaluate to the record of ENCODE at the present duty and change nothing else
(43_phase_encoder.md R210 to R215; the field `result` is the model's own, log entry 7). -/
def Obligations.PhaseRowsEvaluate : Prop :=
  ∀ s : State,
    exec .phaseOff s = .next { s with result := some (.record ⟨false, false, false, 0⟩) } ∧
    exec .phaseFloat s = .next { s with result := some (.record ⟨false, false, false, 0⟩) } ∧
    exec .phaseDriveHigh s = .next { s with result := some (.record ⟨true, false, true, 0⟩) } ∧
    exec .phaseDriveLow s = .next { s with result := some (.record ⟨true, false, false, 0⟩) } ∧
    exec .phasePwmPlus s = .next { s with result := some (.record ⟨true, true, false, s.duty⟩) } ∧
    exec .phasePwmMinus s = .next { s with result := some (.record ⟨true, true, false, s.cfg.pwmPeriod - s.duty⟩) } ∧
    exec .phaseReserved6 s = .next { s with result := some (.record ⟨false, false, false, 0⟩) } ∧
    exec .phaseReserved7 s = .next { s with result := some (.record ⟨false, false, false, 0⟩) }

/-- The rows of the `MotorState` codes evaluate to their state (30_encoding.md R91; log entry 7). -/
def Obligations.MotorStateRowsEvaluate : Prop :=
  ∀ s : State,
    exec .motorStateOff s = .next { s with result := some (.motorState .off) } ∧
    exec .motorStateRampup s = .next { s with result := some (.motorState .rampup) } ∧
    exec .motorStateOn s = .next { s with result := some (.motorState .on) }

/-- `MotorState` code 3 has no defined behaviour: its row stops by name (30_encoding.md R105; log entry 8). -/
def Obligations.ReservedMotorStateStops : Prop :=
  ∀ s : State, exec .motorStateReserved3 s = .refused .reservedMotorStateCode

/-- The rows of the default table of the asymmetric mode evaluate to the states of phases A, B, C (42_sector_table.md R193;
log entry 7). -/
def Obligations.AsymRailRowsEvaluate : Prop :=
  ∀ s : State,
    exec .asymRail0 s = .next { s with result := some (.entry ⟨.pwmPlus, .driveLow, .float⟩) } ∧
    exec .asymRail1 s = .next { s with result := some (.entry ⟨.pwmPlus, .float, .driveLow⟩) } ∧
    exec .asymRail2 s = .next { s with result := some (.entry ⟨.float, .pwmPlus, .driveLow⟩) } ∧
    exec .asymRail3 s = .next { s with result := some (.entry ⟨.driveLow, .pwmPlus, .float⟩) } ∧
    exec .asymRail4 s = .next { s with result := some (.entry ⟨.driveLow, .float, .pwmPlus⟩) } ∧
    exec .asymRail5 s = .next { s with result := some (.entry ⟨.float, .driveLow, .pwmPlus⟩) }

/-- The rows of the default table of the symmetric mode (42_sector_table.md R194; log entry 7). -/
def Obligations.SymComplRowsEvaluate : Prop :=
  ∀ s : State,
    exec .symCompl0 s = .next { s with result := some (.entry ⟨.pwmPlus, .pwmMinus, .float⟩) } ∧
    exec .symCompl1 s = .next { s with result := some (.entry ⟨.pwmPlus, .float, .pwmMinus⟩) } ∧
    exec .symCompl2 s = .next { s with result := some (.entry ⟨.float, .pwmPlus, .pwmMinus⟩) } ∧
    exec .symCompl3 s = .next { s with result := some (.entry ⟨.pwmMinus, .pwmPlus, .float⟩) } ∧
    exec .symCompl4 s = .next { s with result := some (.entry ⟨.pwmMinus, .float, .pwmPlus⟩) } ∧
    exec .symCompl5 s = .next { s with result := some (.entry ⟨.float, .pwmMinus, .pwmPlus⟩) }

/-- `ConfigValid` is V1 to V4 of 00_scope.md R9, for every `W`; and both default tables are valid in their mode and not in
the other (42_sector_table.md R196, TV36). -/
def Obligations.DefaultTablesValid : Prop :=
  (∀ (w : Nat) (c : Cfg w), configValid c = true ↔
    (2 ≤ c.pwmPeriod.toNat ∧ c.pwmPeriod.toNat ≤ 2 ^ w - 1 ∧ 1 ≤ c.rampDc.toNat ∧ c.rampDc.toNat ≤ c.pwmPeriod.toNat - 1 ∧
      1 ≤ c.runDc.toNat ∧ c.runDc.toNat ≤ c.pwmPeriod.toNat - 1) ∧
    (1 ≤ c.maxSpdTm.toNat ∧ c.maxSpdTm.toNat ≤ c.handoffTm.toNat ∧ c.handoffTm.toNat < c.loSpdTm.toNat ∧
      c.loSpdTm.toNat ≤ 2 ^ w - 1) ∧
    (c.rampStepTmMin.toNat ≤ c.rampStepTmStart.toNat ∧ c.rampStepTmStart.toNat ≤ 2 ^ w - 1) ∧
    tableValid c.sectorTable c.driveMode = true) ∧
  tableValid (defaultTable .asymRail) .asymRail = true ∧ tableValid (defaultTable .symCompl) .symCompl = true ∧
  tableValid (defaultTable .symCompl) .asymRail = false ∧ tableValid (defaultTable .asymRail) .symCompl = false

/-- In every entry of every valid table exactly one phase is Float, the other two are driven and none is Off or reserved: in
the asymmetric mode one is modulated and one a rail, in the symmetric mode one is `PwmPlus` and one `PwmMinus`; the enable
pattern has exactly the driven phases' bits set; and no two sectors have the same assignment of roles, roles being the
classes of R195 (42_sector_table.md R192, R195, R196 T1, T2, T3, T6, R197; the class of a reserved code is log entry 16). -/
def Obligations.ValidTableDrivesTwoPhases : Prop :=
  (∀ m, [.off, .float, .driveHigh, .driveLow, .pwmPlus, .pwmMinus, .reserved6, .reserved7].map (role m) =
    match m with
    | .asymRail => [.floating, .floating, .rail, .rail, .modulated, .modulated, .floating, .floating]
    | .symCompl => [.floating, .floating, .rail, .rail, .plus, .minus, .floating, .floating]) ∧
  (∀ (t : SectorTable) (m : DriveMode), tableValid t m = true → ∀ s s' : BitVec 3, s.toNat ≤ 5 → s'.toNat ≤ 5 → s ≠ s' →
    ¬ (role m (tableRead t s).a = role m (tableRead t s').a ∧ role m (tableRead t s).b = role m (tableRead t s').b ∧
      role m (tableRead t s).c = role m (tableRead t s').c)) ∧
  ∀ (t : SectorTable) (m : DriveMode), tableValid t m = true → ∀ s : BitVec 3, s.toNat ≤ 5 →
    (tableRead t s).count (· == .float) = 1 ∧ (tableRead t s).count driven = 2 ∧
    (m = .asymRail → (tableRead t s).count (fun q => q == .pwmPlus || q == .pwmMinus) = 1 ∧
      (tableRead t s).count (fun q => q == .driveHigh || q == .driveLow) = 1) ∧
    (m = .symCompl → (tableRead t s).count (· == .pwmPlus) = 1 ∧ (tableRead t s).count (· == .pwmMinus) = 1) ∧
    ((enablePattern (tableRead t s)).getLsbD 0 = driven (tableRead t s).a) ∧
    ((enablePattern (tableRead t s)).getLsbD 1 = driven (tableRead t s).b) ∧
    ((enablePattern (tableRead t s)).getLsbD 2 = driven (tableRead t s).c)

/-- The enable mask of the encoded entry is the entry's enable pattern, and of the all-off vector it is 0
(43_phase_encoder.md R223, 42_sector_table.md R197). -/
def Obligations.EnableMaskIsPattern : Prop :=
  (∀ (w : Nat) (p d : BitVec w) (q : Phases), enableMask (encodePhases p d q) = enablePattern q) ∧
  ∀ (w : Nat) (p d : BitVec w), enableMask (encodePhases p d ⟨.off, .off, .off⟩) = 0

/-- In every valid table a commutation step hands over exactly one role: one phase keeps its role and is driven, the other
two exchange theirs, one of them floating before and the other after (42_sector_table.md R196 T4, T5); and a table with such
steps, whose entries have the roles of the mode and one Float (T1 to T3) and differ pairwise in their roles (T6), is valid.
How T4 and T5 are read is log entry 18. -/
def Obligations.ValidTableHandsOverOneRole : Prop :=
  ∀ (t : SectorTable) (m : DriveMode),
    let r := fun (u : BitVec 3) (ch : Channel) => role m (match ch with
      | .a => (tableRead t u).a
      | .b => (tableRead t u).b
      | .c => (tableRead t u).c)
    let handsOver := ∀ s s' : BitVec 3, s.toNat ≤ 5 → s'.toNat = (s.toNat + 1) % 6 →
      ∃ k x y : Channel, k ≠ x ∧ k ≠ y ∧ x ≠ y ∧
        r s k = r s' k ∧ r s k ≠ .floating ∧ r s x = r s' y ∧ r s y = r s' x ∧ r s x = .floating ∧ r s y ≠ .floating
    (tableValid t m = true → handsOver) ∧
    (handsOver →
      (∀ s : BitVec 3, s.toNat ≤ 5 → (tableRead t s).count (· == .float) = 1 ∧
        match m with
        | .asymRail => (tableRead t s).count (fun q => q == .pwmPlus || q == .pwmMinus) = 1 ∧
            (tableRead t s).count (fun q => q == .driveHigh || q == .driveLow) = 1
        | .symCompl => (tableRead t s).count (· == .pwmPlus) = 1 ∧ (tableRead t s).count (· == .pwmMinus) = 1) →
      (∀ s s' : BitVec 3, s.toNat ≤ 5 → s'.toNat ≤ 5 → s ≠ s' → ∃ ch, r s ch ≠ r s' ch) →
      tableValid t m = true)

/-- TableRead of sectors 0 to 5 gives the three fields of the table's own entry (20_memory.md R62, 30_encoding.md R94), and
SECTOR_LOOKUP reads the entry of `CommutationSector` unless the duty is 0 (42_sector_table.md R190, R191); sector codes 6
and 7 read all Off, in every table (20_memory.md R66). -/
def Obligations.ReservedSectorReadsOff : Prop :=
  (∀ t : SectorTable,
    let entry := fun (e : SectWord) =>
      Phases.mk (phaseOfCode (e.extractLsb' 0 3)) (phaseOfCode (e.extractLsb' 3 3)) (phaseOfCode (e.extractLsb' 6 3))
    tableRead t 0 = entry t.s0 ∧ tableRead t 1 = entry t.s1 ∧ tableRead t 2 = entry t.s2 ∧ tableRead t 3 = entry t.s3 ∧
    tableRead t 4 = entry t.s4 ∧ tableRead t 5 = entry t.s5 ∧
    tableRead t 6 = ⟨.off, .off, .off⟩ ∧ tableRead t 7 = ⟨.off, .off, .off⟩) ∧
  ∀ (w : Nat) (c : Cfg w) (s : Regs w),
    sectorLookup c s = if s.duty = 0 then ⟨.off, .off, .off⟩ else tableRead c.sectorTable s.sector

/-- The zero-duty override (42_sector_table.md R191): whatever the sector and the table, a TICK that leaves a zero duty
leaves every channel's record all 0. -/
def Obligations.ZeroDutyDrivesNothing : Prop :=
  ∀ s : State, ∃ t, exec .tick s = .next t ∧
    (t.duty = 0 → ∀ ch, t.out.get ch = ⟨false, false, false, 0⟩)

/-! ### Invariants -/

/-- The invariants I1 to I8 are kept by every step (10_state.md R34). -/
def Obligations.StepKeepsInvariants : Prop := ∀ s t : State, Inv s → step s = .next t → Inv t

/-- The invariants hold at reset, for every valid configuration (10_state.md R34, R35). -/
def Obligations.InvariantsAtReset : Prop :=
  ∀ c : Cfg 16, configValid c = true → Inv { State.reset with cfg := c }

/-- The second half of I6 (10_state.md R34): the counter is below the period in the state a TICK leaves. -/
def Obligations.CounterBelowPeriodAfterTick : Prop :=
  ∀ s : State, Inv s → ∃ t, exec .tick s = .next t ∧ counterBelowPeriod t

/-- The safety invariant of the directive stream is kept by every step, in every configuration (43_phase_encoder.md
R222). -/
def Obligations.StreamStaysBracketed : Prop :=
  ∀ s t : State, bracketed s.directives = true → step s = .next t → bracketed t.directives = true

/-- Inside a TICK the output registers hold the combination before the bracket, none, or the one after it, at every point of
the stream, and the stream's writes add up to the outputs the TICK leaves (43_phase_encoder.md R222 d). -/
def Obligations.NoOtherCombinationDriven : Prop :=
  ∀ s : State, ∃ (t : State) (ds : List (Directive 16)), exec .tick s = .next t ∧ t.directives = s.directives ++ ds ∧
    s.out.replay ds = t.out ∧
    ∀ n, s.out.replay (ds.take n) = s.out ∨ undriven (s.out.replay (ds.take n)) ∨ s.out.replay (ds.take n) = t.out

/-- Inside a TICK a Config directive lands only while no channel is driven (43_phase_encoder.md R222 c). -/
def Obligations.ConfigLandsUndriven : Prop :=
  ∀ s : State, ∃ (t : State) (ds : List (Directive 16)), exec .tick s = .next t ∧ t.directives = s.directives ++ ds ∧
    ∀ before ch p l w after, ds = before ++ .config ch p l w :: after → undriven (s.out.replay before)

/-- No step writes the configuration, and the stream only grows at its end (10_state.md R31, 20_memory.md R71, R75). -/
def Obligations.ConfigurationFixedStreamGrows : Prop :=
  ∀ s t : State, step s = .next t → t.cfg = s.cfg ∧ ∃ ds, t.directives = s.directives ++ ds

/-! ### Whole-machine rules -/

/-- The only transitions of `MotorState` (40_state_machine.md R130): to OFF by STOP or RESET; from OFF to RAMPUP by a speed
command, with a valid configuration; from RAMPUP to ON by a TICK, with the period at or below the hand-off threshold. -/
def Obligations.MotorStateTransitions : Prop :=
  ∀ s t : State, step s = .next t → t.motorState ≠ s.motorState →
    ∃ item rest, s.inputs = item :: rest ∧
      ((item = .rst ∧ t.motorState = .off) ∨
       ∃ w, item = .cmd w ∧
        ((decodeCmd w = .stop ∧ t.motorState = .off) ∨
         ((decodeCmd w = .speedInc ∨ decodeCmd w = .speedDec) ∧ s.motorState = .off ∧ t.motorState = .rampup ∧
           configValid s.cfg = true) ∨
         (decodeCmd w = .tick ∧ s.motorState = .rampup ∧ t.motorState = .on ∧ s.period ≤ s.cfg.handoffTm)))

/-- With an invalid configuration the core never leaves OFF, its duty target stays 0 and outputs that are off stay off; it
emits no directive but SetTickPeriod then (60_exceptions.md R262). -/
def Obligations.InvalidConfigurationStaysOff : Prop :=
  ∀ s t : State, configValid s.cfg = false → s.motorState = .off → s.duty = 0 → step s = .next t →
    t.motorState = .off ∧ t.duty = 0 ∧
    (s.out = ⟨⟨false, false, false, 0⟩, ⟨false, false, false, 0⟩, ⟨false, false, false, 0⟩⟩ →
      t.out = s.out ∧ ∃ ds, t.directives = s.directives ++ ds ∧ ∀ d ∈ ds, ∃ v, d = .setTickPeriod v)

/-- While ramping the period never increases, changes by at most 1 a step, and does not pass the hand-off threshold
(41_ramp_generator.md R173). -/
def Obligations.RampPeriodNeverRises : Prop :=
  ∀ s t : State, s.motorState = .rampup → t.motorState = .rampup → step s = .next t →
    t.period.toNat ≤ s.period.toNat ∧ s.period.toNat ≤ t.period.toNat + 1 ∧
    (s.cfg.handoffTm ≤ s.period → s.cfg.handoffTm ≤ t.period)

/-- The sector stays, or advances by 1 modulo 6 with a non-zero duty, or is reset (10_state.md R22, 40_state_machine.md
R138). The advance from the sector codes 6 and 7, which no run reaches, is the model's reading (log entry 9). -/
def Obligations.SectorAdvancesByOne : Prop :=
  ∀ s t : State, step s = .next t →
    t.sector = s.sector ∨ (t.duty ≠ 0 ∧ t.sector.toNat = (s.sector.toNat + 1) % 6) ∨
    (t.sector = 0 ∧ ∃ rest, s.inputs = .rst :: rest)

/-- The length of the `FIXED` ramp, for every `W` (41_ramp_generator.md R174): from the registers START leaves, `N =
BLDC_OL_TM_LO_SPD - HANDOFF_TM` TICKs ramp, and TICK `N + 1` goes ON; a TICK of the run is `exec .tick` of the machine. -/
def Obligations.FixedRampLength : Prop :=
  (∀ s : State, exec .tick s = .next { s with toRegs := tick s.cfg s.toRegs }) ∧
  ∀ (w : Nat) (c : Cfg w) (s : Regs w), s.motorState = .rampup → s.period = c.loSpdTm → c.handoffTm < c.loSpdTm →
    c.rampMode = .fixed →
    (∀ k, k ≤ c.loSpdTm.toNat - c.handoffTm.toNat →
      (runTicks c k s).motorState = .rampup ∧ (runTicks c k s).period.toNat = c.loSpdTm.toNat - k) ∧
    (runTicks c (c.loSpdTm.toNat - c.handoffTm.toNat + 1) s).motorState = .on

/-- The length of the `GEOMETRIC` ramp, for every `W` (41_ramp_generator.md R174): after the TICKs of the first `n`
decrements the period is `BLDC_OL_TM_LO_SPD - n` and timer and interval hold `i_n`; one TICK after the last decrement goes
ON. -/
def Obligations.GeometricRampLength : Prop :=
  ∀ (w : Nat) (c : Cfg w) (s : Regs w), s.motorState = .rampup → s.period = c.loSpdTm → c.handoffTm < c.loSpdTm →
    c.rampMode = .geometric → s.rampTimer = c.rampStepTmStart → s.rampInterval = c.rampStepTmStart →
    (∀ n, n ≤ c.loSpdTm.toNat - c.handoffTm.toNat →
      (runTicks c (geometricTicks c n) s).motorState = .rampup ∧
      (runTicks c (geometricTicks c n) s).period.toNat = c.loSpdTm.toNat - n ∧
      (runTicks c (geometricTicks c n) s).rampInterval.toNat = geometricInterval c n ∧
      (runTicks c (geometricTicks c n) s).rampTimer.toNat = geometricInterval c n) ∧
    (runTicks c (geometricTicks c (c.loSpdTm.toNat - c.handoffTm.toNat) + 1) s).motorState = .on

/-- The four properties of the state machine, for every `W` and every configuration (40_state_machine.md R144): SPEED_INC
from OFF, the ramp and its hand-off, STOP and the TICK after it, and the scenario of 432 TICKs; the commands named are those
the machine executes. -/
def Obligations.StateMachineProperties : Prop :=
  (∀ s : State, exec .tick s = .next { s with toRegs := tick s.cfg s.toRegs } ∧
    exec .speedInc s = .next { s with toRegs := speedInc s.cfg s.toRegs } ∧
    exec .stop s = .next { s with toRegs := stop s.toRegs }) ∧
  ∀ (w : Nat) (c : Cfg w), startProperty c ∧ rampProperty c ∧ stopProperty c ∧ scenarioProperty c

/-- A stop takes effect in two steps (40_state_machine.md R144 item 3, 70_reset_and_hazards.md R296, R303): STOP leaves the
outputs as they are; the TICK after it reloads the period, turns every channel off and keeps the sector. -/
def Obligations.StopThenTick : Prop :=
  ∀ s : State, ∃ t u, exec .stop s = .next t ∧ exec .tick t = .next u ∧
    t.motorState = .off ∧ t.duty = 0 ∧ t.period = s.period ∧ t.out = s.out ∧
    u.motorState = .off ∧ u.period = s.cfg.loSpdTm ∧ u.sector = s.sector ∧
    ∀ ch, u.out.get ch = ⟨false, false, false, 0⟩

/-- ON with a zero manual duty (70_reset_and_hazards.md R297): nothing is driven and the sector holds, while the state stays
ON. -/
def Obligations.ManualZeroDutyHoldsSector : Prop :=
  ∀ s : State, s.cfg.manualMode = true → s.motorState = .on → s.manualDuty = 0 →
    ∃ t, exec .tick s = .next t ∧ t.motorState = .on ∧ t.duty = 0 ∧ t.sector = s.sector ∧
      ∀ ch, t.out.get ch = ⟨false, false, false, 0⟩
end

