-- ==== Sys2Proof/Laws/Arith.lean ====
section
/-! SUPPORT. The guarded arithmetic of the rules as natural numbers (00_scope.md R14), and the operand forms. -/

namespace Sys2Proof.Machine

variable {w : Nat}

/-- The constant 1 of a word that has a non-zero value. -/
theorem toNat_one_of_pos {a : BitVec w} (h : 0 < a.toNat) : (1 : BitVec w).toNat = 1 := by
  have := a.isLt
  show 1 % 2 ^ w = 1
  exact Nat.mod_eq_of_lt (by omega)

/-- Subtracting 1 from a non-zero word. -/
theorem toNat_sub_one_of_pos {a : BitVec w} (h : 0 < a.toNat) : (a - 1).toNat = a.toNat - 1 := by
  have := a.isLt
  rw [BitVec.toNat_sub, toNat_one_of_pos h, show 2 ^ w - 1 + a.toNat = a.toNat - 1 + 2 ^ w by omega, Nat.add_mod_right]
  exact Nat.mod_eq_of_lt (by omega)

theorem toNat_sub_one_of_ne_zero {a : BitVec w} (h : a ≠ 0) : (a - 1).toNat = a.toNat - 1 :=
  toNat_sub_one_of_pos (Nat.pos_of_ne_zero fun e => h (BitVec.eq_of_toNat_eq (by simpa using e)))

/-- Subtracting 1 from a word that exceeds another cannot underflow. -/
theorem toNat_sub_one_of_lt {a b : BitVec w} (h : a < b) : (b - 1).toNat = b.toNat - 1 :=
  toNat_sub_one_of_pos (Nat.zero_lt_of_lt (BitVec.lt_def.mp h))

/-- Adding 1 to a word below another cannot overflow. -/
theorem toNat_add_one_of_lt {a b : BitVec w} (h : a < b) : (a + 1).toNat = a.toNat + 1 := by
  have h' := BitVec.lt_def.mp h
  have := b.isLt
  rw [BitVec.toNat_add, toNat_one_of_pos (Nat.zero_lt_of_lt h')]
  exact Nat.mod_eq_of_lt (by omega)

/-- The width of `PwmMinus`: no underflow below the PWM period. -/
theorem toNat_sub_of_lt {d p : BitVec w} (h : d < p) : (p - d).toNat = p.toNat - d.toNat := by
  have h' := BitVec.lt_def.mp h
  have := p.isLt
  rw [BitVec.toNat_sub, show 2 ^ w - d.toNat + p.toNat = p.toNat - d.toNat + 2 ^ w by omega, Nat.add_mod_right]
  exact Nat.mod_eq_of_lt (by omega)

/-- The clamp, as a minimum, for a PWM period that is not 0. -/
theorem toNat_clampDuty {c : Cfg w} (h : c.pwmPeriod ≠ 0) (v : BitVec w) :
    (clampDuty c v).toNat = min v.toNat (c.pwmPeriod.toNat - 1) := by
  unfold clampDuty
  have hs := toNat_sub_one_of_ne_zero h
  split <;> rename_i hv <;> rw [BitVec.le_def, hs] at hv
  · omega
  · rw [hs]; omega

/-- The halved interval, as a maximum. -/
theorem toNat_halveInterval (c : Cfg w) (i : BitVec w) :
    (halveInterval c i).toNat = max (i.toNat / 2) c.rampStepTmMin.toNat := by
  unfold halveInterval
  have h : (i >>> 1).toNat = i.toNat / 2 := by
    rw [BitVec.toNat_ushiftRight, Nat.shiftRight_eq_div_pow]
  split <;> rename_i hv <;> rw [BitVec.lt_def, h] at hv
  · omega
  · rw [h]; omega

/-- The next sector, as a number. -/
theorem toNat_nextSector (s : BitVec 3) : (nextSector s).toNat = (s.toNat + 1) % 6 := by
  simp only [nextSector, BitVec.toNat_ofNat]
  omega

end Sys2Proof.Machine
end

