-- ==== Sys2Proof/Laws/Decode.lean ====
section
/-! SUPPORT. The fields of a command word and of a directive word (30_encoding.md R101, R115), and the bytes of a number
(20_memory.md R65). -/

namespace Sys2Proof

/-- The opcode of a command word. -/
theorem cmdWord_opcode {w : Nat} (v : BitVec w) (k : BitVec 3) : (cmdWord v k).extractLsb' 0 3 = k :=
  BitVec.extractLsb'_append_eq_right

/-- The operand of a command word. -/
theorem cmdWord_operand {w : Nat} (v : BitVec w) (k : BitVec 3) : (cmdWord v k).extractLsb' 3 w = v :=
  BitVec.extractLsb'_append_eq_left

/-- Every command word is an operand and an opcode. -/
theorem cmdWord_fields {w : Nat} (x : BitVec (w + 3)) : cmdWord (x.extractLsb' 3 w) (x.extractLsb' 0 3) = x :=
  BitVec.extractLsb'_append_extractLsb' (w := w) (len := 3) (x := x)

section
variable {w : Nat} (value : BitVec w) (level pwmEn : Bool) (sel kind : BitVec 2)

theorem dirFields_kind : (dirFields value level pwmEn sel kind).extractLsb' 0 2 = kind :=
  BitVec.extractLsb'_append_eq_right

theorem dirFields_sel : (dirFields value level pwmEn sel kind).extractLsb' 2 2 = sel :=
  (BitVec.extractLsb'_append_eq_of_le (by decide)).trans BitVec.extractLsb'_append_eq_right

theorem dirFields_pwmEn : (dirFields value level pwmEn sel kind).getLsbD 4 = pwmEn := by
  simp only [dirFields]
  rw [BitVec.getLsbD_append, if_neg (by decide), BitVec.getLsbD_append, if_neg (by decide), BitVec.getLsbD_append,
    if_pos (by decide)]
  cases pwmEn <;> rfl

theorem dirFields_level : (dirFields value level pwmEn sel kind).getLsbD 5 = level := by
  simp only [dirFields]
  rw [BitVec.getLsbD_append, if_neg (by decide), BitVec.getLsbD_append, if_neg (by decide), BitVec.getLsbD_append,
    if_neg (by decide), BitVec.getLsbD_append, if_pos (by decide)]
  cases level <;> rfl

theorem dirFields_value : (dirFields value level pwmEn sel kind).extractLsb' 6 w = value :=
  (BitVec.extractLsb'_append_eq_of_le (by decide)).trans <|
    (BitVec.extractLsb'_append_eq_of_le (by decide)).trans <|
      (BitVec.extractLsb'_append_eq_of_le (by decide)).trans BitVec.extractLsb'_append_eq_left
end

theorem bytesOfNat_length (k n : Nat) : (bytesOfNat k n).length = k := by
  induction k generalizing n <;> simp [bytesOfNat, *]

/-- The bytes of a number that fits them give it back. -/
theorem natOfBytes_bytesOfNat (k n : Nat) (h : n < 256 ^ k) : natOfBytes (bytesOfNat k n) = n := by
  induction k generalizing n with
  | zero => simp only [Nat.pow_zero, Nat.lt_one_iff] at h; simp [bytesOfNat, natOfBytes, h]
  | succ k ih =>
    rw [Nat.pow_succ] at h
    simp only [bytesOfNat, natOfBytes, BitVec.toNat_ofNat]
    rw [ih _ (by omega)]
    omega

/-- Every format's word fits its bytes. -/
theorem width_le_bytes (f : Format) : f.width ≤ 8 * f.byteLength := by cases f <;> decide

theorem fits_bytes {f : Format} {n : Nat} (h : n < 2 ^ f.width) : n < 256 ^ f.byteLength := by
  rw [show (256 : Nat) = 2 ^ 8 from rfl, ← Nat.pow_mul]
  exact Nat.lt_of_lt_of_le h (Nat.pow_le_pow_right (by decide) (width_le_bytes f))

/-- Decoding from bytes is decoding the word they carry. -/
theorem decodeBytes_bytesOfNat {f : Format} {n : Nat} (h : n < 2 ^ f.width) :
    decodeBytes f (bytesOfNat f.byteLength n) = (decodeWord f n).map (·, []) := by
  unfold decodeBytes
  rw [if_neg (by rw [bytesOfNat_length]; omega), List.take_of_length_le (by rw [bytesOfNat_length]),
    List.drop_of_length_le (by rw [bytesOfNat_length]), natOfBytes_bytesOfNat _ _ (fits_bytes h)]
  cases decodeWord f n <;> rfl

end Sys2Proof
end

