-- ==== Sys2Proof/Laws/State.lean ====
section
/-! SUPPORT. What each writer of Machine/Ops.lean leaves in each field. -/

namespace Sys2Proof.Machine

variable {w : Nat}

section
variable (s : Regs w) (v : MotorState)
@[simp] theorem Regs.setMotorState_motorState : (s.setMotorState v).motorState = v := rfl
@[simp] theorem Regs.setMotorState_sector : (s.setMotorState v).sector = s.sector := rfl
@[simp] theorem Regs.setMotorState_duty : (s.setMotorState v).duty = s.duty := rfl
@[simp] theorem Regs.setMotorState_period : (s.setMotorState v).period = s.period := rfl
@[simp] theorem Regs.setMotorState_rampTimer : (s.setMotorState v).rampTimer = s.rampTimer := rfl
@[simp] theorem Regs.setMotorState_rampInterval : (s.setMotorState v).rampInterval = s.rampInterval := rfl
@[simp] theorem Regs.setMotorState_tickCounter : (s.setMotorState v).tickCounter = s.tickCounter := rfl
@[simp] theorem Regs.setMotorState_manualDuty : (s.setMotorState v).manualDuty = s.manualDuty := rfl
@[simp] theorem Regs.setMotorState_out : (s.setMotorState v).out = s.out := rfl
@[simp] theorem Regs.setMotorState_directives : (s.setMotorState v).directives = s.directives := rfl
end

section
variable (s : Regs w) (v : BitVec 3)
@[simp] theorem Regs.setSector_motorState : (s.setSector v).motorState = s.motorState := rfl
@[simp] theorem Regs.setSector_sector : (s.setSector v).sector = v := rfl
@[simp] theorem Regs.setSector_duty : (s.setSector v).duty = s.duty := rfl
@[simp] theorem Regs.setSector_period : (s.setSector v).period = s.period := rfl
@[simp] theorem Regs.setSector_rampTimer : (s.setSector v).rampTimer = s.rampTimer := rfl
@[simp] theorem Regs.setSector_rampInterval : (s.setSector v).rampInterval = s.rampInterval := rfl
@[simp] theorem Regs.setSector_tickCounter : (s.setSector v).tickCounter = s.tickCounter := rfl
@[simp] theorem Regs.setSector_manualDuty : (s.setSector v).manualDuty = s.manualDuty := rfl
@[simp] theorem Regs.setSector_out : (s.setSector v).out = s.out := rfl
@[simp] theorem Regs.setSector_directives : (s.setSector v).directives = s.directives := rfl
end

section
variable (s : Regs w) (v : BitVec w)
@[simp] theorem Regs.setDuty_motorState : (s.setDuty v).motorState = s.motorState := rfl
@[simp] theorem Regs.setDuty_sector : (s.setDuty v).sector = s.sector := rfl
@[simp] theorem Regs.setDuty_duty : (s.setDuty v).duty = v := rfl
@[simp] theorem Regs.setDuty_period : (s.setDuty v).period = s.period := rfl
@[simp] theorem Regs.setDuty_rampTimer : (s.setDuty v).rampTimer = s.rampTimer := rfl
@[simp] theorem Regs.setDuty_rampInterval : (s.setDuty v).rampInterval = s.rampInterval := rfl
@[simp] theorem Regs.setDuty_tickCounter : (s.setDuty v).tickCounter = s.tickCounter := rfl
@[simp] theorem Regs.setDuty_manualDuty : (s.setDuty v).manualDuty = s.manualDuty := rfl
@[simp] theorem Regs.setDuty_out : (s.setDuty v).out = s.out := rfl
@[simp] theorem Regs.setDuty_directives : (s.setDuty v).directives = s.directives := rfl
end

section
variable (s : Regs w) (v : BitVec w)
@[simp] theorem Regs.setPeriod_motorState : (s.setPeriod v).motorState = s.motorState := rfl
@[simp] theorem Regs.setPeriod_sector : (s.setPeriod v).sector = s.sector := rfl
@[simp] theorem Regs.setPeriod_duty : (s.setPeriod v).duty = s.duty := rfl
@[simp] theorem Regs.setPeriod_period : (s.setPeriod v).period = v := rfl
@[simp] theorem Regs.setPeriod_rampTimer : (s.setPeriod v).rampTimer = s.rampTimer := rfl
@[simp] theorem Regs.setPeriod_rampInterval : (s.setPeriod v).rampInterval = s.rampInterval := rfl
@[simp] theorem Regs.setPeriod_tickCounter : (s.setPeriod v).tickCounter = s.tickCounter := rfl
@[simp] theorem Regs.setPeriod_manualDuty : (s.setPeriod v).manualDuty = s.manualDuty := rfl
@[simp] theorem Regs.setPeriod_out : (s.setPeriod v).out = s.out := rfl
@[simp] theorem Regs.setPeriod_directives : (s.setPeriod v).directives = s.directives := rfl
end

section
variable (s : Regs w) (v : BitVec w)
@[simp] theorem Regs.setRampTimer_motorState : (s.setRampTimer v).motorState = s.motorState := rfl
@[simp] theorem Regs.setRampTimer_sector : (s.setRampTimer v).sector = s.sector := rfl
@[simp] theorem Regs.setRampTimer_duty : (s.setRampTimer v).duty = s.duty := rfl
@[simp] theorem Regs.setRampTimer_period : (s.setRampTimer v).period = s.period := rfl
@[simp] theorem Regs.setRampTimer_rampTimer : (s.setRampTimer v).rampTimer = v := rfl
@[simp] theorem Regs.setRampTimer_rampInterval : (s.setRampTimer v).rampInterval = s.rampInterval := rfl
@[simp] theorem Regs.setRampTimer_tickCounter : (s.setRampTimer v).tickCounter = s.tickCounter := rfl
@[simp] theorem Regs.setRampTimer_manualDuty : (s.setRampTimer v).manualDuty = s.manualDuty := rfl
@[simp] theorem Regs.setRampTimer_out : (s.setRampTimer v).out = s.out := rfl
@[simp] theorem Regs.setRampTimer_directives : (s.setRampTimer v).directives = s.directives := rfl
end

section
variable (s : Regs w) (v : BitVec w)
@[simp] theorem Regs.setRampInterval_motorState : (s.setRampInterval v).motorState = s.motorState := rfl
@[simp] theorem Regs.setRampInterval_sector : (s.setRampInterval v).sector = s.sector := rfl
@[simp] theorem Regs.setRampInterval_duty : (s.setRampInterval v).duty = s.duty := rfl
@[simp] theorem Regs.setRampInterval_period : (s.setRampInterval v).period = s.period := rfl
@[simp] theorem Regs.setRampInterval_rampTimer : (s.setRampInterval v).rampTimer = s.rampTimer := rfl
@[simp] theorem Regs.setRampInterval_rampInterval : (s.setRampInterval v).rampInterval = v := rfl
@[simp] theorem Regs.setRampInterval_tickCounter : (s.setRampInterval v).tickCounter = s.tickCounter := rfl
@[simp] theorem Regs.setRampInterval_manualDuty : (s.setRampInterval v).manualDuty = s.manualDuty := rfl
@[simp] theorem Regs.setRampInterval_out : (s.setRampInterval v).out = s.out := rfl
@[simp] theorem Regs.setRampInterval_directives : (s.setRampInterval v).directives = s.directives := rfl
end

section
variable (s : Regs w) (v : BitVec w)
@[simp] theorem Regs.setTickCounter_motorState : (s.setTickCounter v).motorState = s.motorState := rfl
@[simp] theorem Regs.setTickCounter_sector : (s.setTickCounter v).sector = s.sector := rfl
@[simp] theorem Regs.setTickCounter_duty : (s.setTickCounter v).duty = s.duty := rfl
@[simp] theorem Regs.setTickCounter_period : (s.setTickCounter v).period = s.period := rfl
@[simp] theorem Regs.setTickCounter_rampTimer : (s.setTickCounter v).rampTimer = s.rampTimer := rfl
@[simp] theorem Regs.setTickCounter_rampInterval : (s.setTickCounter v).rampInterval = s.rampInterval := rfl
@[simp] theorem Regs.setTickCounter_tickCounter : (s.setTickCounter v).tickCounter = v := rfl
@[simp] theorem Regs.setTickCounter_manualDuty : (s.setTickCounter v).manualDuty = s.manualDuty := rfl
@[simp] theorem Regs.setTickCounter_out : (s.setTickCounter v).out = s.out := rfl
@[simp] theorem Regs.setTickCounter_directives : (s.setTickCounter v).directives = s.directives := rfl
end

section
variable (s : Regs w) (v : BitVec w)
@[simp] theorem Regs.setManualDuty_motorState : (s.setManualDuty v).motorState = s.motorState := rfl
@[simp] theorem Regs.setManualDuty_sector : (s.setManualDuty v).sector = s.sector := rfl
@[simp] theorem Regs.setManualDuty_duty : (s.setManualDuty v).duty = s.duty := rfl
@[simp] theorem Regs.setManualDuty_period : (s.setManualDuty v).period = s.period := rfl
@[simp] theorem Regs.setManualDuty_rampTimer : (s.setManualDuty v).rampTimer = s.rampTimer := rfl
@[simp] theorem Regs.setManualDuty_rampInterval : (s.setManualDuty v).rampInterval = s.rampInterval := rfl
@[simp] theorem Regs.setManualDuty_tickCounter : (s.setManualDuty v).tickCounter = s.tickCounter := rfl
@[simp] theorem Regs.setManualDuty_manualDuty : (s.setManualDuty v).manualDuty = v := rfl
@[simp] theorem Regs.setManualDuty_out : (s.setManualDuty v).out = s.out := rfl
@[simp] theorem Regs.setManualDuty_directives : (s.setManualDuty v).directives = s.directives := rfl
end

section
variable (s : Regs w) (v : Outs w)
@[simp] theorem Regs.setOut_motorState : (s.setOut v).motorState = s.motorState := rfl
@[simp] theorem Regs.setOut_sector : (s.setOut v).sector = s.sector := rfl
@[simp] theorem Regs.setOut_duty : (s.setOut v).duty = s.duty := rfl
@[simp] theorem Regs.setOut_period : (s.setOut v).period = s.period := rfl
@[simp] theorem Regs.setOut_rampTimer : (s.setOut v).rampTimer = s.rampTimer := rfl
@[simp] theorem Regs.setOut_rampInterval : (s.setOut v).rampInterval = s.rampInterval := rfl
@[simp] theorem Regs.setOut_tickCounter : (s.setOut v).tickCounter = s.tickCounter := rfl
@[simp] theorem Regs.setOut_manualDuty : (s.setOut v).manualDuty = s.manualDuty := rfl
@[simp] theorem Regs.setOut_out : (s.setOut v).out = v := rfl
@[simp] theorem Regs.setOut_directives : (s.setOut v).directives = s.directives := rfl
end

section
variable (s : Regs w) (v : List (Directive w))
@[simp] theorem Regs.setDirectives_motorState : (s.setDirectives v).motorState = s.motorState := rfl
@[simp] theorem Regs.setDirectives_sector : (s.setDirectives v).sector = s.sector := rfl
@[simp] theorem Regs.setDirectives_duty : (s.setDirectives v).duty = s.duty := rfl
@[simp] theorem Regs.setDirectives_period : (s.setDirectives v).period = s.period := rfl
@[simp] theorem Regs.setDirectives_rampTimer : (s.setDirectives v).rampTimer = s.rampTimer := rfl
@[simp] theorem Regs.setDirectives_rampInterval : (s.setDirectives v).rampInterval = s.rampInterval := rfl
@[simp] theorem Regs.setDirectives_tickCounter : (s.setDirectives v).tickCounter = s.tickCounter := rfl
@[simp] theorem Regs.setDirectives_manualDuty : (s.setDirectives v).manualDuty = s.manualDuty := rfl
@[simp] theorem Regs.setDirectives_out : (s.setDirectives v).out = s.out := rfl
@[simp] theorem Regs.setDirectives_directives : (s.setDirectives v).directives = v := rfl
end

/-! ### The machine around the registers -/

section
variable (s : State) (v : Regs 16)
@[simp] theorem State.setRegs_toRegs : (s.setRegs v).toRegs = v := rfl
@[simp] theorem State.setRegs_cfg : (s.setRegs v).cfg = s.cfg := rfl
@[simp] theorem State.setRegs_inputs : (s.setRegs v).inputs = s.inputs := rfl
@[simp] theorem State.setRegs_result : (s.setRegs v).result = s.result := rfl
end

section
variable (s : State) (v : List PortInput)
@[simp] theorem State.setInputs_toRegs : (s.setInputs v).toRegs = s.toRegs := rfl
@[simp] theorem State.setInputs_cfg : (s.setInputs v).cfg = s.cfg := rfl
@[simp] theorem State.setInputs_inputs : (s.setInputs v).inputs = v := rfl
@[simp] theorem State.setInputs_result : (s.setInputs v).result = s.result := rfl
end

section
variable (s : State) (v : Option Value)
@[simp] theorem State.setResult_toRegs : (s.setResult v).toRegs = s.toRegs := rfl
@[simp] theorem State.setResult_cfg : (s.setResult v).cfg = s.cfg := rfl
@[simp] theorem State.setResult_inputs : (s.setResult v).inputs = s.inputs := rfl
@[simp] theorem State.setResult_result : (s.setResult v).result = v := rfl
end

section
variable (s : State) (f : Cfg 16 → Regs 16 → Regs 16)
@[simp] theorem State.update_toRegs : (s.update f).toRegs = f s.cfg s.toRegs := rfl
@[simp] theorem State.update_cfg : (s.update f).cfg = s.cfg := rfl
@[simp] theorem State.update_inputs : (s.update f).inputs = s.inputs := rfl
@[simp] theorem State.update_result : (s.update f).result = s.result := rfl
end

end Sys2Proof.Machine
end

