-- ==== Sys2Proof/Laws/Ops.lean ====
section
/-! SUPPORT. What the shared operations over the output registers and the directive stream do, said once: `emit`,
`emitAll`, the bracket and UPDATE_OUTPUTS. -/

namespace Sys2Proof.Machine

variable {w : Nat}

theorem emitAll_eq (ds : List (Directive w)) (s : Regs w) :
    emitAll ds s = (s.setOut (s.out.replay ds)).setDirectives (s.directives ++ ds) := by
  induction ds generalizing s with
  | nil => simp [emitAll, Outs.replay, Regs.setOut, Regs.setDirectives]
  | cons d ds ih => rw [emitAll, ih]; simp [emit, Outs.replay, Regs.setOut, Regs.setDirectives]

theorem Outs.replay_append (o : Outs w) (xs ys : List (Directive w)) : o.replay (xs ++ ys) = (o.replay xs).replay ys := by
  induction xs generalizing o with
  | nil => rfl
  | cons x xs ih => exact ih _

theorem setDrvEn_enableMask (o des : Outs w) : o.setDrvEn (enableMask des) =
    ⟨{ o.a with drvEn := des.a.drvEn }, { o.b with drvEn := des.b.drvEn }, { o.c with drvEn := des.c.drvEn }⟩ := by
  have key : ∀ a b c : Bool, (BitVec.ofBool c ++ BitVec.ofBool b ++ BitVec.ofBool a).getLsbD 0 = a ∧
      (BitVec.ofBool c ++ BitVec.ofBool b ++ BitVec.ofBool a).getLsbD 1 = b ∧
      (BitVec.ofBool c ++ BitVec.ofBool b ++ BitVec.ofBool a).getLsbD 2 = c := by decide
  obtain ⟨h0, h1, h2⟩ := key des.a.drvEn des.b.drvEn des.c.drvEn
  simp only [Outs.setDrvEn, enableMask, h0, h1, h2]

/-- Whatever the outputs were, the bracket takes them to `des` (R220). -/
theorem Outs.replay_bracket (o des : Outs w) : o.replay (bracket des) = des := by
  simp only [bracket, configOf, Outs.replay, Outs.apply, setDrvEn_enableMask]
  rfl

/-- The directives UPDATE_OUTPUTS emits: none or one bracket (R220, R221). -/
def updateDirectives (c : Cfg w) (s : Regs w) : List (Directive w) :=
  if desiredOuts c s = s.out then [] else bracket (desiredOuts c s)

/-- Everything UPDATE_OUTPUTS does: `Out` becomes the desired vector, and the stream grows by `updateDirectives`. -/
theorem updateOutputs_eq (c : Cfg w) (s : Regs w) :
    updateOutputs c s = (s.setOut (desiredOuts c s)).setDirectives (s.directives ++ updateDirectives c s) := by
  unfold updateOutputs updateDirectives
  split
  · rename_i h; rw [h]; simp [Regs.setOut, Regs.setDirectives]
  · rw [emitAll_eq, Outs.replay_bracket]

section
variable (d : Directive w) (s : Regs w)
@[simp] theorem emit_motorState : (emit d s).motorState = s.motorState := rfl
@[simp] theorem emit_sector : (emit d s).sector = s.sector := rfl
@[simp] theorem emit_duty : (emit d s).duty = s.duty := rfl
@[simp] theorem emit_period : (emit d s).period = s.period := rfl
@[simp] theorem emit_rampTimer : (emit d s).rampTimer = s.rampTimer := rfl
@[simp] theorem emit_rampInterval : (emit d s).rampInterval = s.rampInterval := rfl
@[simp] theorem emit_tickCounter : (emit d s).tickCounter = s.tickCounter := rfl
@[simp] theorem emit_manualDuty : (emit d s).manualDuty = s.manualDuty := rfl
@[simp] theorem emit_out : (emit d s).out = s.out.apply d := rfl
@[simp] theorem emit_directives : (emit d s).directives = s.directives ++ [d] := rfl
end

section
variable (c : Cfg w) (s : Regs w)
@[simp] theorem updateOutputs_motorState : (updateOutputs c s).motorState = s.motorState := by simp [updateOutputs_eq]
@[simp] theorem updateOutputs_sector : (updateOutputs c s).sector = s.sector := by simp [updateOutputs_eq]
@[simp] theorem updateOutputs_duty : (updateOutputs c s).duty = s.duty := by simp [updateOutputs_eq]
@[simp] theorem updateOutputs_period : (updateOutputs c s).period = s.period := by simp [updateOutputs_eq]
@[simp] theorem updateOutputs_rampTimer : (updateOutputs c s).rampTimer = s.rampTimer := by simp [updateOutputs_eq]
@[simp] theorem updateOutputs_rampInterval : (updateOutputs c s).rampInterval = s.rampInterval := by
  simp [updateOutputs_eq]
@[simp] theorem updateOutputs_tickCounter : (updateOutputs c s).tickCounter = s.tickCounter := by simp [updateOutputs_eq]
@[simp] theorem updateOutputs_manualDuty : (updateOutputs c s).manualDuty = s.manualDuty := by simp [updateOutputs_eq]
@[simp] theorem updateOutputs_out : (updateOutputs c s).out = desiredOuts c s := by simp [updateOutputs_eq]
@[simp] theorem updateOutputs_directives :
    (updateOutputs c s).directives = s.directives ++ updateDirectives c s := by simp [updateOutputs_eq]
end

end Sys2Proof.Machine
end

