-- ==== Sys2Proof/Laws/PerInstr.lean ====
section
/-! SUPPORT. The family `EncodeFits`: the canonical word of every instruction has no bit above its format's width
(30_encoding.md R90), so every set bit of it is one the decoder reads. -/

namespace Sys2Proof.Laws.EncodeFits

/-- The canonical word fits the format's width. -/
def Statement (i : Instr) : Prop := encode i < 2 ^ i.format.width

theorem nop : Statement .nop := BitVec.isLt _
theorem tick : Statement .tick := BitVec.isLt _
theorem stop : Statement .stop := BitVec.isLt _
theorem speedInc : Statement .speedInc := BitVec.isLt _
theorem speedDec : Statement .speedDec := BitVec.isLt _
theorem setManualDuty (value : Word) : Statement (.setManualDuty value) := BitVec.isLt _
theorem reserved6 : Statement .reserved6 := BitVec.isLt _
theorem reserved7 : Statement .reserved7 := BitVec.isLt _
theorem disableAll : Statement .disableAll := BitVec.isLt _
theorem config (ch : Channel) (pwmEn level : Bool) (width : Word) : Statement (.config ch pwmEn level width) := BitVec.isLt _
theorem enableSet (mask : BitVec 3) : Statement (.enableSet mask) := BitVec.isLt _
theorem setTickPeriod (value : Word) : Statement (.setTickPeriod value) := BitVec.isLt _
theorem motorStateOff : Statement .motorStateOff := BitVec.isLt _
theorem motorStateRampup : Statement .motorStateRampup := BitVec.isLt _
theorem motorStateOn : Statement .motorStateOn := BitVec.isLt _
theorem motorStateReserved3 : Statement .motorStateReserved3 := by unfold Statement; decide
theorem phaseOff : Statement .phaseOff := BitVec.isLt _
theorem phaseFloat : Statement .phaseFloat := BitVec.isLt _
theorem phaseDriveHigh : Statement .phaseDriveHigh := BitVec.isLt _
theorem phaseDriveLow : Statement .phaseDriveLow := BitVec.isLt _
theorem phasePwmPlus : Statement .phasePwmPlus := BitVec.isLt _
theorem phasePwmMinus : Statement .phasePwmMinus := BitVec.isLt _
theorem phaseReserved6 : Statement .phaseReserved6 := BitVec.isLt _
theorem phaseReserved7 : Statement .phaseReserved7 := BitVec.isLt _
theorem asymRail0 : Statement .asymRail0 := BitVec.isLt _
theorem asymRail1 : Statement .asymRail1 := BitVec.isLt _
theorem asymRail2 : Statement .asymRail2 := BitVec.isLt _
theorem asymRail3 : Statement .asymRail3 := BitVec.isLt _
theorem asymRail4 : Statement .asymRail4 := BitVec.isLt _
theorem asymRail5 : Statement .asymRail5 := BitVec.isLt _
theorem symCompl0 : Statement .symCompl0 := BitVec.isLt _
theorem symCompl1 : Statement .symCompl1 := BitVec.isLt _
theorem symCompl2 : Statement .symCompl2 := BitVec.isLt _
theorem symCompl3 : Statement .symCompl3 := BitVec.isLt _
theorem symCompl4 : Statement .symCompl4 := BitVec.isLt _
theorem symCompl5 : Statement .symCompl5 := BitVec.isLt _

/-- The family holds of every instruction. -/
theorem all (i : Instr) : Statement i := by
  cases i with
  | nop => exact nop
  | tick => exact tick
  | stop => exact stop
  | speedInc => exact speedInc
  | speedDec => exact speedDec
  | setManualDuty value => exact setManualDuty value
  | reserved6 => exact reserved6
  | reserved7 => exact reserved7
  | disableAll => exact disableAll
  | config ch pwmEn level width => exact config ch pwmEn level width
  | enableSet mask => exact enableSet mask
  | setTickPeriod value => exact setTickPeriod value
  | motorStateOff => exact motorStateOff
  | motorStateRampup => exact motorStateRampup
  | motorStateOn => exact motorStateOn
  | motorStateReserved3 => exact motorStateReserved3
  | phaseOff => exact phaseOff
  | phaseFloat => exact phaseFloat
  | phaseDriveHigh => exact phaseDriveHigh
  | phaseDriveLow => exact phaseDriveLow
  | phasePwmPlus => exact phasePwmPlus
  | phasePwmMinus => exact phasePwmMinus
  | phaseReserved6 => exact phaseReserved6
  | phaseReserved7 => exact phaseReserved7
  | asymRail0 => exact asymRail0
  | asymRail1 => exact asymRail1
  | asymRail2 => exact asymRail2
  | asymRail3 => exact asymRail3
  | asymRail4 => exact asymRail4
  | asymRail5 => exact asymRail5
  | symCompl0 => exact symCompl0
  | symCompl1 => exact symCompl1
  | symCompl2 => exact symCompl2
  | symCompl3 => exact symCompl3
  | symCompl4 => exact symCompl4
  | symCompl5 => exact symCompl5

end Sys2Proof.Laws.EncodeFits
end

