-- ==== Sys2Proof/Laws/Tick.lean ====
section
/-! SUPPORT. What the micro-operations of TICK and the commands leave in each field, said once; later proofs cite these
and do not unfold the operations. -/

namespace Sys2Proof.Machine

variable {w : Nat}

/-! ### The ramp -/

section
variable (c : Cfg w) (s : Regs w)
@[simp] theorem rampStep_motorState : (rampStep c s).motorState = s.motorState := by
  unfold rampStep; split <;> simp only [rampStepFixed, rampStepGeometric] <;> (try split) <;> rfl
@[simp] theorem rampStep_sector : (rampStep c s).sector = s.sector := by
  unfold rampStep; split <;> simp only [rampStepFixed, rampStepGeometric] <;> (try split) <;> rfl
@[simp] theorem rampStep_duty : (rampStep c s).duty = s.duty := by
  unfold rampStep; split <;> simp only [rampStepFixed, rampStepGeometric] <;> (try split) <;> rfl
@[simp] theorem rampStep_tickCounter : (rampStep c s).tickCounter = s.tickCounter := by
  unfold rampStep; split <;> simp only [rampStepFixed, rampStepGeometric] <;> (try split) <;> rfl
@[simp] theorem rampStep_manualDuty : (rampStep c s).manualDuty = s.manualDuty := by
  unfold rampStep; split <;> simp only [rampStepFixed, rampStepGeometric] <;> (try split) <;> rfl
@[simp] theorem rampStep_out : (rampStep c s).out = s.out := by
  unfold rampStep; split <;> simp only [rampStepFixed, rampStepGeometric] <;> (try split) <;> rfl
@[simp] theorem rampStep_directives : (rampStep c s).directives = s.directives := by
  unfold rampStep; split <;> simp only [rampStepFixed, rampStepGeometric] <;> (try split) <;> rfl
end

theorem rampStep_fixed {c : Cfg w} {s : Regs w} (h : c.rampMode = .fixed) : rampStep c s = s.setPeriod (s.period - 1) := by
  simp [rampStep, h, rampStepFixed]

theorem rampStep_geometric_expired {c : Cfg w} {s : Regs w} (h : c.rampMode = .geometric) (h0 : s.rampTimer = 0) :
    rampStep c s = ((s.setRampInterval (halveInterval c s.rampInterval)).setRampTimer
      (halveInterval c s.rampInterval)).setPeriod (s.period - 1) := by
  simp [rampStep, h, rampStepGeometric, expired, h0]

theorem rampStep_geometric_running {c : Cfg w} {s : Regs w} (h : c.rampMode = .geometric) (h0 : s.rampTimer ≠ 0) :
    rampStep c s = s.setRampTimer (s.rampTimer - 1) := by
  simp only [rampStep, h, rampStepGeometric, expired, decide_eq_true_eq, if_neg h0]

/-! ### Phase 1 of TICK -/

section
variable (c : Cfg w) (s : Regs w)
@[simp] theorem tickLogic_sector : (tickLogic c s).sector = s.sector := by
  unfold tickLogic; split <;> (try split) <;> simp [tickOff, tickRamp, tickHandoff, tickOn, apply_ite]
@[simp] theorem tickLogic_manualDuty : (tickLogic c s).manualDuty = s.manualDuty := by
  unfold tickLogic; split <;> (try split) <;> simp [tickOff, tickRamp, tickHandoff, tickOn, apply_ite]
@[simp] theorem tickLogic_out : (tickLogic c s).out = s.out := by
  unfold tickLogic; split <;> (try split) <;> simp [tickOff, tickRamp, tickHandoff, tickOn, apply_ite]
@[simp] theorem tickLogic_directives : (tickLogic c s).directives = s.directives := by
  unfold tickLogic; split <;> (try split) <;> simp [tickOff, tickRamp, tickHandoff, tickOn, apply_ite]
end

theorem tickLogic_off {c : Cfg w} {s : Regs w} (h : s.motorState = .off) : tickLogic c s = tickOff c s := by
  simp [tickLogic, h]

theorem tickLogic_ramp {c : Cfg w} {s : Regs w} (h : s.motorState = .rampup) (hp : c.handoffTm < s.period) :
    tickLogic c s = tickRamp c s := by simp [tickLogic, h, ramping, hp]

theorem tickLogic_handoff {c : Cfg w} {s : Regs w} (h : s.motorState = .rampup) (hp : ¬ c.handoffTm < s.period) :
    tickLogic c s = tickHandoff c s := by simp [tickLogic, h, ramping, hp]

theorem tickLogic_on {c : Cfg w} {s : Regs w} (h : s.motorState = .on) : tickLogic c s = tickOn c s := by simp [tickLogic, h]

/-- The counter is cleared in OFF and untouched otherwise by phase 1. -/
theorem tickLogic_tickCounter (c : Cfg w) (s : Regs w) :
    (tickLogic c s).tickCounter = if s.motorState = .off then 0 else s.tickCounter := by
  unfold tickLogic
  split <;> rename_i h <;> simp only [h]
  · simp [tickOff]
  · split <;> simp [tickRamp, tickHandoff]
  · simp [tickOn, apply_ite]

/-! ### Phase 2 of TICK -/

/-- The counter after phase 2, for a state with `MotorState` not OFF in the `COUNTED` model (R136). -/
theorem tickCommutate_counted {c : Cfg w} {s : Regs w} (hm : c.tickModel = .counted) (h : s.motorState ≠ .off) :
    tickCommutate c s =
      if s.period ≤ s.tickCounter + 1 then commStep (s.setTickCounter 0) else s.setTickCounter (s.tickCounter + 1) := by
  simp only [tickCommutate, commDue, hm, commDueCounted]
  cases hs : s.motorState with
  | off => exact absurd hs h
  | rampup | on =>
    by_cases hc : s.period ≤ s.tickCounter + 1
    · have hd : counterReached (s.setTickCounter (s.tickCounter + 1)) = true := decide_eq_true hc
      simp only [hd, if_true, if_pos hc]
      rfl
    · have hd : counterReached (s.setTickCounter (s.tickCounter + 1)) = false := decide_eq_false hc
      simp only [hd, if_neg hc]
      rfl

theorem tickCommutate_off {c : Cfg w} {s : Regs w} (hm : c.tickModel = .counted) (h : s.motorState = .off) :
    tickCommutate c s = s := by simp [tickCommutate, commDue, hm, commDueCounted, h]

theorem tickCommutate_reprogram {c : Cfg w} {s : Regs w} (hm : c.tickModel = .reprogram) :
    tickCommutate c s = commStep s := by
  simp [tickCommutate, commDue, hm, commDueReprogram]

section
variable (s : Regs w)
@[simp] theorem commStep_motorState : (commStep s).motorState = s.motorState := by
  unfold commStep; split <;> rfl
@[simp] theorem commStep_duty : (commStep s).duty = s.duty := by
  unfold commStep; split <;> rfl
@[simp] theorem commStep_period : (commStep s).period = s.period := by
  unfold commStep; split <;> rfl
@[simp] theorem commStep_rampTimer : (commStep s).rampTimer = s.rampTimer := by
  unfold commStep; split <;> rfl
@[simp] theorem commStep_rampInterval : (commStep s).rampInterval = s.rampInterval := by
  unfold commStep; split <;> rfl
@[simp] theorem commStep_tickCounter : (commStep s).tickCounter = s.tickCounter := by
  unfold commStep; split <;> rfl
@[simp] theorem commStep_manualDuty : (commStep s).manualDuty = s.manualDuty := by
  unfold commStep; split <;> rfl
@[simp] theorem commStep_out : (commStep s).out = s.out := by
  unfold commStep; split <;> rfl
@[simp] theorem commStep_directives : (commStep s).directives = s.directives := by
  unfold commStep; split <;> rfl
end

theorem commStep_sector (s : Regs w) :
    (commStep s).sector = if s.duty = 0 then s.sector else nextSector s.sector := by
  unfold commStep; split <;> rfl

section
variable (c : Cfg w) (s : Regs w)
@[simp] theorem commDue_motorState : (commDue c s).1.motorState = s.motorState := by
  unfold commDue; split
  · unfold commDueCounted; split
    · rfl
    · dsimp only; split <;> rfl
  · rfl
@[simp] theorem commDue_duty : (commDue c s).1.duty = s.duty := by
  unfold commDue; split
  · unfold commDueCounted; split
    · rfl
    · dsimp only; split <;> rfl
  · rfl
@[simp] theorem commDue_period : (commDue c s).1.period = s.period := by
  unfold commDue; split
  · unfold commDueCounted; split
    · rfl
    · dsimp only; split <;> rfl
  · rfl
@[simp] theorem commDue_rampTimer : (commDue c s).1.rampTimer = s.rampTimer := by
  unfold commDue; split
  · unfold commDueCounted; split
    · rfl
    · dsimp only; split <;> rfl
  · rfl
@[simp] theorem commDue_rampInterval : (commDue c s).1.rampInterval = s.rampInterval := by
  unfold commDue; split
  · unfold commDueCounted; split
    · rfl
    · dsimp only; split <;> rfl
  · rfl
@[simp] theorem commDue_manualDuty : (commDue c s).1.manualDuty = s.manualDuty := by
  unfold commDue; split
  · unfold commDueCounted; split
    · rfl
    · dsimp only; split <;> rfl
  · rfl
@[simp] theorem commDue_out : (commDue c s).1.out = s.out := by
  unfold commDue; split
  · unfold commDueCounted; split
    · rfl
    · dsimp only; split <;> rfl
  · rfl
@[simp] theorem commDue_directives : (commDue c s).1.directives = s.directives := by
  unfold commDue; split
  · unfold commDueCounted; split
    · rfl
    · dsimp only; split <;> rfl
  · rfl
@[simp] theorem tickCommutate_motorState : (tickCommutate c s).motorState = s.motorState := by
  unfold tickCommutate; split <;> simp
@[simp] theorem tickCommutate_duty : (tickCommutate c s).duty = s.duty := by
  unfold tickCommutate; split <;> simp
@[simp] theorem tickCommutate_period : (tickCommutate c s).period = s.period := by
  unfold tickCommutate; split <;> simp
@[simp] theorem tickCommutate_rampTimer : (tickCommutate c s).rampTimer = s.rampTimer := by
  unfold tickCommutate; split <;> simp
@[simp] theorem tickCommutate_rampInterval : (tickCommutate c s).rampInterval = s.rampInterval := by
  unfold tickCommutate; split <;> simp
@[simp] theorem tickCommutate_manualDuty : (tickCommutate c s).manualDuty = s.manualDuty := by
  unfold tickCommutate; split <;> simp
@[simp] theorem tickCommutate_out : (tickCommutate c s).out = s.out := by
  unfold tickCommutate; split <;> simp
@[simp] theorem tickCommutate_directives : (tickCommutate c s).directives = s.directives := by
  unfold tickCommutate; split <;> simp
end

/-! ### Phase 3 of TICK -/

section
variable (c : Cfg w) (s : Regs w)
@[simp] theorem announcePeriod_motorState : (announcePeriod c s).motorState = s.motorState := by
  unfold announcePeriod; split <;> rfl
@[simp] theorem announcePeriod_sector : (announcePeriod c s).sector = s.sector := by
  unfold announcePeriod; split <;> rfl
@[simp] theorem announcePeriod_duty : (announcePeriod c s).duty = s.duty := by
  unfold announcePeriod; split <;> rfl
@[simp] theorem announcePeriod_period : (announcePeriod c s).period = s.period := by
  unfold announcePeriod; split <;> rfl
@[simp] theorem announcePeriod_rampTimer : (announcePeriod c s).rampTimer = s.rampTimer := by
  unfold announcePeriod; split <;> rfl
@[simp] theorem announcePeriod_rampInterval : (announcePeriod c s).rampInterval = s.rampInterval := by
  unfold announcePeriod; split <;> rfl
@[simp] theorem announcePeriod_tickCounter : (announcePeriod c s).tickCounter = s.tickCounter := by
  unfold announcePeriod; split <;> rfl
@[simp] theorem announcePeriod_manualDuty : (announcePeriod c s).manualDuty = s.manualDuty := by
  unfold announcePeriod; split <;> rfl
@[simp] theorem announcePeriod_out : (announcePeriod c s).out = s.out := by
  unfold announcePeriod; split <;> rfl


end

/-- The SetTickPeriod directives of a TICK: none in the `COUNTED` model, one in the `REPROGRAM` model (R131, R137). -/
def announceDirectives (c : Cfg w) (s : Regs w) : List (Directive w) :=
  match c.tickModel with
  | .counted => []
  | .reprogram => [.setTickPeriod s.period]

theorem announcePeriod_directives (c : Cfg w) (s : Regs w) :
    (announcePeriod c s).directives = s.directives ++ announceDirectives c s := by
  unfold announcePeriod announceDirectives; cases c.tickModel <;> simp

theorem desiredOuts_announcePeriod (c : Cfg w) (s : Regs w) : desiredOuts c (announcePeriod c s) = desiredOuts c s := by
  simp [desiredOuts, sectorLookup]

theorem updateDirectives_announcePeriod (c : Cfg w) (s : Regs w) :
    updateDirectives c (announcePeriod c s) = updateDirectives c s := by
  simp [updateDirectives, desiredOuts_announcePeriod]

/-! ### TICK -/

section
variable (c : Cfg w) (s : Regs w)
@[simp] theorem tick_motorState : (tick c s).motorState = (tickLogic c s).motorState := by simp [tick]
@[simp] theorem tick_duty : (tick c s).duty = (tickLogic c s).duty := by simp [tick]
@[simp] theorem tick_period : (tick c s).period = (tickLogic c s).period := by simp [tick]
@[simp] theorem tick_rampTimer : (tick c s).rampTimer = (tickLogic c s).rampTimer := by simp [tick]
@[simp] theorem tick_rampInterval : (tick c s).rampInterval = (tickLogic c s).rampInterval := by simp [tick]
theorem tick_sector : (tick c s).sector = (tickCommutate c (tickLogic c s)).sector := by simp [tick]
theorem tick_tickCounter : (tick c s).tickCounter = (tickCommutate c (tickLogic c s)).tickCounter := by simp [tick]
@[simp] theorem tick_manualDuty : (tick c s).manualDuty = s.manualDuty := by simp [tick]
theorem tick_out : (tick c s).out = desiredOuts c (tickCommutate c (tickLogic c s)) := by
  simp [tick, desiredOuts_announcePeriod]
/-- What a TICK appends to the stream: at most one SetTickPeriod, then at most one bracket. -/
theorem tick_directives : (tick c s).directives =
    s.directives ++ (announceDirectives c (tickCommutate c (tickLogic c s)) ++
      updateDirectives c (tickCommutate c (tickLogic c s))) := by
  simp [tick, announcePeriod_directives, updateDirectives_announcePeriod]
end

/-! ### Runs of TICKs -/

@[simp] theorem runTicks_zero (c : Cfg w) (s : Regs w) : runTicks c 0 s = s := rfl

@[simp] theorem runTicks_succ (c : Cfg w) (n : Nat) (s : Regs w) : runTicks c (n + 1) s = tick c (runTicks c n s) := rfl

/-- A run of `n + m` TICKs is a run of `m`, then one of `n`. -/
theorem runTicks_add (c : Cfg w) (n m : Nat) (s : Regs w) : runTicks c (n + m) s = runTicks c n (runTicks c m s) := by
  induction n with
  | zero => simp
  | succ n ih => rw [Nat.succ_add, runTicks_succ, runTicks_succ, ih]

/-! ### START and the speed commands -/

/-- What START does in a valid configuration (R140). -/
theorem start_valid {c : Cfg w} {s : Regs w} (h : configValid c = true) :
    start c s = ((((s.setMotorState .rampup).setPeriod c.loSpdTm).setRampTimer c.rampStepTmStart).setRampInterval
      c.rampStepTmStart).setTickCounter 0 := by simp [start, h]

/-- START is refused in an invalid configuration (R262). -/
theorem start_invalid {c : Cfg w} {s : Regs w} (h : configValid c = false) : start c s = s := by simp [start, h]

section
variable (c : Cfg w) (s : Regs w)
@[simp] theorem start_sector : (start c s).sector = s.sector := by
  unfold start; split <;> rfl
@[simp] theorem start_duty : (start c s).duty = s.duty := by
  unfold start; split <;> rfl
@[simp] theorem start_manualDuty : (start c s).manualDuty = s.manualDuty := by
  unfold start; split <;> rfl
@[simp] theorem start_out : (start c s).out = s.out := by
  unfold start; split <;> rfl
@[simp] theorem start_directives : (start c s).directives = s.directives := by
  unfold start; split <;> rfl
end

section
variable (c : Cfg w) (s : Regs w)
@[simp] theorem speedInc_sector : (speedInc c s).sector = s.sector := by
  unfold speedInc; split <;> (try split) <;> simp
@[simp] theorem speedInc_duty : (speedInc c s).duty = s.duty := by
  unfold speedInc; split <;> (try split) <;> simp
@[simp] theorem speedInc_manualDuty : (speedInc c s).manualDuty = s.manualDuty := by
  unfold speedInc; split <;> (try split) <;> simp
@[simp] theorem speedInc_out : (speedInc c s).out = s.out := by
  unfold speedInc; split <;> (try split) <;> simp
@[simp] theorem speedInc_directives : (speedInc c s).directives = s.directives := by
  unfold speedInc; split <;> (try split) <;> simp
end

section
variable (c : Cfg w) (s : Regs w)
@[simp] theorem speedDec_sector : (speedDec c s).sector = s.sector := by
  unfold speedDec; split <;> (try split) <;> simp
@[simp] theorem speedDec_duty : (speedDec c s).duty = s.duty := by
  unfold speedDec; split <;> (try split) <;> simp
@[simp] theorem speedDec_manualDuty : (speedDec c s).manualDuty = s.manualDuty := by
  unfold speedDec; split <;> (try split) <;> simp
@[simp] theorem speedDec_out : (speedDec c s).out = s.out := by
  unfold speedDec; split <;> (try split) <;> simp
@[simp] theorem speedDec_directives : (speedDec c s).directives = s.directives := by
  unfold speedDec; split <;> (try split) <;> simp
end

@[simp] theorem resetRegisters_directives (s : Regs w) : (resetRegisters s).directives = s.directives := rfl

end Sys2Proof.Machine
end

