-- ==== Sys2Proof/Laws/Step.lean ====
section
/-! SUPPORT. What a step can do, said once. `step_cases` lists the changes a step can make to the registers, the outputs and
the stream; the invariants are proved from it. -/

namespace Sys2Proof.Machine

/-- Everything a step of the core can do, whatever its width (R103, R104). -/
theorem coreStep_cases {w : Nat} (c : Cfg w) (cmd : BitVec (w + 3)) (s : Regs w) :
    coreStep c cmd s = s ∨ coreStep c cmd s = tick c s ∨ coreStep c cmd s = stop s ∨ coreStep c cmd s = speedInc c s ∨
      coreStep c cmd s = speedDec c s ∨ coreStep c cmd s = setManualDuty (cmdOperand cmd) c s := by
  unfold coreStep
  split <;> simp

/-- What a command word executes: an opcode is one of eight (R103, R104). -/
theorem decodeCmd_cases (w : CmdWord) :
    decodeCmd w = .nop ∨ decodeCmd w = .tick ∨ decodeCmd w = .stop ∨ decodeCmd w = .speedInc ∨ decodeCmd w = .speedDec ∨
      (∃ v, decodeCmd w = .setManualDuty v) ∨ decodeCmd w = .reserved6 ∨ decodeCmd w = .reserved7 := by
  unfold decodeCmd
  split <;> simp

/-- An evaluated data word is one of the rows of its format. -/
theorem exec_decodeData {d : DataWord} {i : Instr} {s t : State} (h : decodeData d = .ok i) (he : exec i s = .next t) :
    ∃ v, t = s.setResult v := by
  have key : ∀ j : Instr, j.format ≠ .cmd → j.format ≠ .dir → exec j s = .next t → ∃ v, t = s.setResult v := by
    intro j hc hd hj
    cases j <;> first
      | exact absurd rfl hc
      | exact absurd rfl hd
      | exact ⟨_, ((Host.Outcome.next.inj hj).symm)⟩
      | cases hj
  refine key i ?_ ?_ he <;>
  · cases d with
    | mstate w => simp only [decodeData, Except.ok.injEq] at h; subst h; unfold decodeMState; split <;> decide
    | pcs w => simp only [decodeData, Except.ok.injEq] at h; subst h; unfold decodePcs; split <;> decide
    | sect w =>
      simp only [decodeData] at h
      unfold decodeSect at h
      split at h <;> first
        | (simp only [Except.ok.injEq] at h; subst h; decide)
        | cases h

/-- Evaluating a data word writes `result` only. -/
theorem evalData_next {d : DataWord} {s t : State} (h : evalData d s = .next t) : ∃ v, t = s.setResult v := by
  cases d with
  | mstate w => exact exec_decodeData (d := .mstate w) rfl h
  | pcs w => exact exec_decodeData (d := .pcs w) rfl h
  | sect w =>
    simp only [evalData] at h
    split at h
    · rename_i i hd
      exact exec_decodeData (d := .sect w) hd h
    · exact ⟨_, (Host.Outcome.next.inj h).symm⟩

/-- A presented table word is the input the next step accepts, on the state it was presented to. -/
theorem step_withFetchWord {s : State} {nbits w : Nat} {item : PortInput} (h : tableInput nbits w = some item) :
    step (s.withFetchWord nbits w) = accept item s := by
  have e : s.withFetchWord nbits w = s.setInputs (item :: s.inputs) := by
    simp only [State.withFetchWord, presentTableWord, h]
  rw [e]
  rfl

/-- Everything a step can do, up to the input list: nothing, RESET, a TICK, STOP, a speed command, SET_MANUAL_DUTY, or the
evaluation of a data word. -/
theorem step_cases {s t : State} (h : step s = .next t) :
    ∃ u ins, u = s.setInputs ins ∧
      (t = u ∨ t = u.update (fun _ => resetRegisters) ∨ t = u.update tick ∨ t = u.update (fun _ => stop) ∨
        t = u.update speedInc ∨ t = u.update speedDec ∨ (∃ v, t = u.update (setManualDuty v)) ∨
        ∃ v, t = u.setResult v) := by
  unfold step at h
  split at h
  · rename_i hi
    refine ⟨s, s.inputs, rfl, .inl ?_⟩
    simpa [idle] using h.symm
  · rename_i item rest hi
    cases item with
    | rst => exact ⟨_, rest, rfl, .inr (.inl (Host.Outcome.next.inj h).symm)⟩
    | requests r => exact ⟨_, _, rfl, .inl (Host.Outcome.next.inj h).symm⟩
    | cmd w =>
      refine ⟨_, rest, rfl, ?_⟩
      simp only [accept] at h
      obtain e | e | e | e | e | ⟨v, e⟩ | e | e := decodeCmd_cases w <;> rw [e] at h <;>
        have h := (Host.Outcome.next.inj h).symm
      · exact .inl h
      · exact .inr (.inr (.inl h))
      · exact .inr (.inr (.inr (.inl h)))
      · exact .inr (.inr (.inr (.inr (.inl h))))
      · exact .inr (.inr (.inr (.inr (.inr (.inl h)))))
      · exact .inr (.inr (.inr (.inr (.inr (.inr (.inl ⟨v, h⟩))))))
      · exact .inl h
      · exact .inl h
    | eval d =>
      refine ⟨_, rest, rfl, ?_⟩
      exact .inr (.inr (.inr (.inr (.inr (.inr (.inr (evalData_next h)))))))

end Sys2Proof.Machine
end

