-- ==== Sys2Proof/Tests/Slice0.lean ====
section
/-! SUPPORT. The model's own tests: the checks of `WellFormed`, the decoder on words written out from the spec, single steps
with the results of spec/95_test_vectors.md (TV1 to TV48), and for every obligation with hypotheses a witness of them. -/

namespace Sys2Proof.Tests

open Sys2Proof.Machine

/-! ### Well-formed instructions -/

theorem test_wf_accepts : Instr.wellFormed .reserved7 = true ∧ Instr.wellFormed (.config .b true false 75) = true ∧
    Instr.wellFormed (.config .a false true 0) = true ∧ Instr.wellFormed .phasePwmMinus = true := by decide

theorem test_wf_refuses_reserved_codes : Instr.wellFormed .motorStateReserved3 = false ∧
    Instr.wellFormed .phaseReserved6 = false ∧ Instr.wellFormed .phaseReserved7 = false := by decide

theorem test_wf_refuses_level_on_pwm : Instr.wellFormed (.config .a true true 50) = false := by decide

theorem test_wf_refuses_width_without_pwm : Instr.wellFormed (.config .a false false 50) = false := by decide

/-! ### Decoding of words written out from the spec -/

/-- TV1, TV2: every command word of R103. -/
theorem test_decode_cmd : [0x00000, 0x00001, 0x00002, 0x00003, 0x00004, 0x00325, 0x00006, 0x00007].map (decodeWord .cmd) =
    [.ok .nop, .ok .tick, .ok .stop, .ok .speedInc, .ok .speedDec, .ok (.setManualDuty 100), .ok .reserved6,
     .ok .reserved7] := by decide

/-- TV2, TV3: operand bits are ignored but for SET_MANUAL_DUTY. -/
theorem test_decode_cmd_operand : [0x7FFFE, 0x7FFFF, 0x091A1, 0x7FFFA, 0x00013, 0x00965, 0x7FFFD].map (decodeWord .cmd) =
    [.ok .reserved6, .ok .reserved7, .ok .tick, .ok .stop, .ok .speedInc, .ok (.setManualDuty 300),
     .ok (.setManualDuty 65535)] := by decide

/-- TV6: the four directives, bit by bit from R115. -/
theorem test_decode_dir :
    [0b0000000000000000000000, 0b0000000001001011010101, 0b0000000000000000100001, 0b0000000000000101000010,
     0b0000001000000000000011].map (decodeWord .dir) =
    [.ok .disableAll, .ok (.config .b true false 75), .ok (.config .a false true 0), .ok (.enableSet 5),
     .ok (.setTickPeriod 512)] := by decide

/-- TV4: the `MotorState` codes. -/
theorem test_decode_mstate : [0b00, 0b01, 0b10, 0b11].map (decodeWord .mstate) =
    [.ok .motorStateOff, .ok .motorStateRampup, .ok .motorStateOn, .ok .motorStateReserved3] := by decide

/-- TV4: the `PhaseChannelState` codes. -/
theorem test_decode_pcs : [0b000, 0b001, 0b010, 0b011, 0b100, 0b101, 0b110, 0b111].map (decodeWord .pcs) =
    [.ok .phaseOff, .ok .phaseFloat, .ok .phaseDriveHigh, .ok .phaseDriveLow, .ok .phasePwmPlus, .ok .phasePwmMinus,
     .ok .phaseReserved6, .ok .phaseReserved7] := by decide

/-- TV5: the entries of the asymmetric table (R193). -/
theorem test_decode_sect_asym :
    [0b001011100, 0b011001100, 0b011100001, 0b001100011, 0b100001011, 0b100011001].map (decodeWord .sect) =
    [.ok .asymRail0, .ok .asymRail1, .ok .asymRail2, .ok .asymRail3, .ok .asymRail4, .ok .asymRail5] := by decide

/-- TV5: the entries of the symmetric table (R194). -/
theorem test_decode_sect_sym :
    [0b001101100, 0b101001100, 0b101100001, 0b001100101, 0b100001101, 0b100101001].map (decodeWord .sect) =
    [.ok .symCompl0, .ok .symCompl1, .ok .symCompl2, .ok .symCompl3, .ok .symCompl4, .ok .symCompl5] := by decide

/-- R105, R115: reserved channel, non-zero unused field; a set bit above the width; a word that is no table entry. -/
theorem test_decode_rejects : decodeWord .dir 0x00000D = .error .reservedChannel ∧
    decodeWord .dir 0x000004 = .error .nonzeroField ∧ decodeWord .dir 0x000202 = .error .nonzeroField ∧
    decodeWord .dir 0x000013 = .error .nonzeroField ∧ decodeWord .cmd 0x80000 = .error .tooWide ∧
    decodeWord .sect 0x000 = .error .notATableEntry := by decide

/-- R65: the least significant byte first. -/
theorem test_decode_bytes : decodeBytes .cmd [0x25, 0x03, 0x00, 0xAA] = .ok (.setManualDuty 100, [0xAA]) ∧
    decodeBytes .cmd [0x25, 0x03] = .error .tooShort ∧ decodeBytes .cmd [0x25, 0x03, 0x08] = .error .tooWide ∧
    encodeBytes (.setManualDuty 100) = [0x25, 0x03, 0x00] := by decide

/-- TV1, TV5, TV6: the encoder. -/
theorem test_encode : [Instr.setManualDuty 249, .config .c true false 200, .config .b false false 0, .enableSet 6,
      .setTickPeriod 80, .disableAll, .asymRail4, .symCompl5].map encode =
    [0x007CD, 0x003219, 0x000005, 0x000182, 0x001403, 0, 0x10B, 0x129] := by decide

/-- The host's numbering of the opcode table (log entry 11). -/
theorem test_decode_table_word : decodeTableWord 24 0x00325 = some (.setManualDuty 100) ∧
    decodeTableWord 16 0x10B = some .asymRail4 ∧ decodeTableWord 8 5 = some .phasePwmMinus ∧
    decodeTableWord 24 0x80000 = none := by decide

/-! ### Small states -/

/-- The next state, where there is one. -/
def nextOf (o : Host.Outcome State Fault Refusal) : Option State :=
  match o with
  | .next t => some t
  | _ => none

/-- The refusal, where there is one. -/
def refusalOf (o : Host.Outcome State Fault Refusal) : Option Refusal :=
  match o with
  | .refused r => some r
  | _ => none

/-- An output record, written as in the spec: `(drv_en, pwm_en, level, width)`. -/
def rec (drv pwm lvl : Bool) (w : Word) : OutReg 16 := ⟨drv, pwm, lvl, w⟩

/-- A channel that is off. -/
def zero : OutReg 16 := rec false false false 0

/-- The state `(MotorState, sector, duty, period, timer, interval, counter)` of spec/95, with `CFG_T`. -/
def st (m : MotorState) (sector : BitVec 3) (duty period timer interval counter : Word)
    (a b c : OutReg 16 := zero) : State :=
  { State.reset with
    motorState := m, sector := sector, duty := duty, period := period, rampTimer := timer, rampInterval := interval,
    tickCounter := counter, out := ⟨a, b, c⟩, cfg := cfgT }

/-- The observation: the registers written as in spec/95, and the manual duty. -/
def obs (s : State) : MotorState × BitVec 3 × List Word :=
  (s.motorState, s.sector, [s.duty, s.period, s.rampTimer, s.rampInterval, s.tickCounter, s.manualDuty])

/-- The outcome of an instruction: the registers, the directive words, the outputs. -/
def run (i : Instr) (s : State) : Option ((MotorState × BitVec 3 × List Word) × List Nat × Outs 16) :=
  match exec i s with
  | .next t => some (obs t, (portDir t.toRegs).map BitVec.toNat, t.out)
  | _ => none

/-- `ON` in sector 5 with the outputs of sector 5 (TV12, TV13). -/
def on5 (counter : Word) : State :=
  st .on 5 75 80 1 1 counter zero (rec true false false 0) (rec true true false 75)

/-- `RAMPUP` in sector 2 with the outputs of sector 2 (TV14). -/
def ramp2 (period timer interval counter : Word) : State :=
  st .rampup 2 50 period timer interval counter zero (rec true true false 50) (rec true false false 0)

/-- Sector 3 at duty 75 (TV16, TV17). -/
def on3 (period counter : Word) : State :=
  st .on 3 75 period 1 1 counter (rec true false false 0) (rec true true false 75) zero

/-- `CFG_T` with the fixed ramp. -/
def cfgFixed : Cfg 16 := { cfgT with rampMode := .fixed }

/-- `CFG_T` with the direct-reprogram tick model. -/
def cfgReprogram : Cfg 16 := { cfgT with tickModel := .reprogram }

/-- `CFG_T` in manual mode. -/
def cfgManual : Cfg 16 := { cfgT with manualMode := true }

/-- TV19: an invalid configuration. -/
def cfgInvalid : Cfg 16 := { cfgT with handoffTm := 512 }

/-- A state of `s` with another configuration. -/
def withCfg (s : State) (c : Cfg 16) : State := { s with cfg := c }

/-! ### Reset, TICK in OFF, START -/

/-- TV8. -/
theorem test_tv08_reset : nextOf (step { on5 17 with inputs := [.rst] }) = some (st .off 0 0 0 0 0 0) := by decide

/-- TV9. -/
theorem test_tv09_first_tick : run .tick (st .off 0 0 0 0 0 0) =
    some ((.off, 0, [0, 512, 8, 8, 0, 0]), [], ⟨zero, zero, zero⟩) := by decide

/-- TV10: SPEED_INC from OFF. -/
theorem test_tv10_start : run .speedInc (st .off 0 0 0 0 0 0) =
    some ((.rampup, 0, [0, 512, 8, 8, 0, 0]), [], ⟨zero, zero, zero⟩) := by decide

/-- TV10: SPEED_DEC from OFF. -/
theorem test_tv10_start_dec : run .speedDec (st .off 0 0 512 8 8 0) =
    some ((.rampup, 0, [0, 512, 8, 8, 0, 0]), [], ⟨zero, zero, zero⟩) := by decide

/-- TV11. -/
theorem test_tv11_first_ramp : run .tick (st .rampup 0 0 512 8 8 0) =
    some ((.rampup, 0, [50, 512, 7, 8, 1, 0]), [0x000000, 0x000C91, 0x000005, 0x000009, 0x0000C2],
      ⟨rec true true false 50, rec true false false 0, zero⟩) := by decide

/-! ### Commutation and hand-off -/

/-- TV12. -/
theorem test_tv12_count : run .tick (on5 78) =
    some ((.on, 5, [75, 80, 1, 1, 79, 0]), [], (on5 78).out) := by decide

/-- TV13. -/
theorem test_tv13_wrap : run .tick (on5 79) =
    some ((.on, 0, [75, 80, 1, 1, 0, 0]), [0x000000, 0x0012D1, 0x000005, 0x000009, 0x0000C2],
      ⟨rec true true false 75, rec true false false 0, zero⟩) := by decide

/-- TV14. -/
theorem test_tv14_handoff : run .tick (ramp2 80 1 1 10) =
    some ((.on, 2, [75, 80, 1, 1, 11, 0]), [0x000000, 0x000001, 0x0012D5, 0x000009, 0x000182],
      ⟨zero, rec true true false 75, rec true false false 0⟩) := by decide

/-- TV15. -/
theorem test_tv15_handoff_and_step : run .tick (ramp2 80 1 1 79) =
    some ((.on, 3, [75, 80, 1, 1, 0, 0]), [0x000000, 0x000001, 0x0012D5, 0x000009, 0x0000C2],
      ⟨rec true false false 0, rec true true false 75, zero⟩) := by decide

/-- TV16: STOP in `ON`, the outputs still driven. -/
theorem test_tv16_stop : run .stop (on3 60 17) =
    some ((.off, 3, [0, 60, 1, 1, 17, 0]), [], ⟨rec true false false 0, rec true true false 75, zero⟩) := by decide

/-- TV17, TV2: NOP and the reserved opcodes. -/
theorem test_tv17_nop : nextOf (exec .nop (on3 60 17)) = some (on3 60 17) ∧
    nextOf (exec .reserved6 (on3 60 17)) = some (on3 60 17) ∧ nextOf (exec .reserved7 (on3 60 17)) = some (on3 60 17) := by
  decide

/-- TV18. -/
theorem test_tv18_tick_after_stop :
    run .tick (st .off 4 0 80 1 1 46 (rec true false false 0) zero (rec true true false 75)) =
    some ((.off, 4, [0, 512, 8, 8, 0, 0]), [0x000000, 0x000001, 0x000005, 0x000009, 0x000002],
      ⟨zero, zero, zero⟩) := by decide

/-- TV19. -/
theorem test_tv19_invalid : nextOf (exec .speedInc (withCfg (st .off 0 0 0 0 0 0) cfgInvalid)) =
      some (withCfg (st .off 0 0 0 0 0 0) cfgInvalid) ∧ portCfgOk cfgInvalid = false := by
  decide

/-- TV20. -/
theorem test_tv20_reprogram_off : run .tick (withCfg (st .off 0 0 0 0 0 0) cfgReprogram) =
    some ((.off, 0, [0, 512, 8, 8, 0, 0]), [0x008003], ⟨zero, zero, zero⟩) := by decide

/-- TV21. -/
theorem test_tv21_reprogram_ramp : run .tick (withCfg (st .rampup 0 0 512 8 8 0) cfgReprogram) =
    some ((.rampup, 1, [50, 512, 7, 8, 0, 0]), [0x008003, 0x000000, 0x000C91, 0x000005, 0x000009, 0x000142],
      ⟨rec true true false 50, zero, rec true false false 0⟩) := by decide

/-- TV22 (b): the counter beyond the period. -/
theorem test_tv22_beyond : (run .tick (st .on 2 75 40 1 1 41)).map (·.1) = some (.on, 3, [75, 40, 1, 1, 0, 0]) := by decide

/-- TV23. -/
theorem test_tv23_due_by_ramp : (run .tick (st .rampup 0 50 300 0 1 298)).map (·.1) =
    some (.rampup, 1, [50, 299, 1, 1, 0, 0]) := by decide

/-! ### The ramp generator -/

/-- TV24. -/
theorem test_tv24_fixed : (run .tick (withCfg (st .rampup 0 0 512 8 8 0) cfgFixed)).map (·.1) =
    some (.rampup, 0, [50, 511, 8, 8, 1, 0]) := by decide

/-- TV25: the last decrement leaves the state RAMPUP. -/
theorem test_tv25_fixed_last : (run .tick (withCfg (ramp2 81 8 8 47) cfgFixed)).map (·.1) =
    some (.rampup, 2, [50, 80, 8, 8, 48, 0]) := by decide

/-- TV26. -/
theorem test_tv26_countdown : (run .tick (st .rampup 0 50 400 3 4 3)).map (·.1) =
    some (.rampup, 0, [50, 400, 2, 4, 4, 0]) := by decide

/-- TV27, TICK 9. -/
theorem test_tv27_expiry : (run .tick (st .rampup 0 50 512 0 8 8)).map (·.1) =
    some (.rampup, 0, [50, 511, 4, 4, 9, 0]) := by decide

/-- TV28. -/
theorem test_tv28_odd : (run .tick (st .rampup 0 50 400 0 5 3)).map (·.1) =
    some (.rampup, 0, [50, 399, 2, 2, 4, 0]) := by decide

/-- TV29: the floor. -/
theorem test_tv29_floor : (run .tick (withCfg (st .rampup 0 50 400 0 4 3) { cfgT with rampStepTmMin := 3 })).map (·.1) =
    some (.rampup, 0, [50, 399, 3, 3, 4, 0]) := by decide

/-- TV30. -/
theorem test_tv30_last : (run .tick (ramp2 81 0 1 10)).map (·.1) =
    some (.rampup, 2, [50, 80, 1, 1, 11, 0]) := by decide

/-! ### The sector table -/

/-- TV7: the enable patterns of both default tables. -/
theorem test_tv07_patterns : sectors.map (fun s => enablePattern (tableRead (defaultTable .asymRail) s)) =
      [0b011, 0b101, 0b110, 0b011, 0b101, 0b110] ∧
    sectors.map (fun s => enablePattern (tableRead (defaultTable .symCompl) s)) =
      [0b011, 0b101, 0b110, 0b011, 0b101, 0b110] := by decide

/-- TV33: the asymmetric default table. -/
theorem test_tv33_lookup : [0, 1, 2, 3, 4, 5].map (fun s => sectorLookup cfgT (st .on s 75 80 1 1 0).toRegs) =
    [⟨.pwmPlus, .driveLow, .float⟩, ⟨.pwmPlus, .float, .driveLow⟩, ⟨.float, .pwmPlus, .driveLow⟩,
     ⟨.driveLow, .pwmPlus, .float⟩, ⟨.driveLow, .float, .pwmPlus⟩, ⟨.float, .driveLow, .pwmPlus⟩] := by decide

/-- TV34: the zero-duty override. -/
theorem test_tv34_zero_duty : [0, 1, 2, 3, 4, 5].map (fun s => sectorLookup cfgT (st .on s 0 80 1 1 0).toRegs) =
    [.allOff, .allOff, .allOff, .allOff, .allOff, .allOff] := by decide

/-- TV36: the valid tables. -/
theorem test_tv36_valid : tableValid ⟨0x119, 0x10B, 0x063, 0x0E1, 0x0CC, 0x05C⟩ .asymRail = true ∧
    tableValid ⟨0x054, 0x08C, 0x0A1, 0x062, 0x10A, 0x111⟩ .asymRail = true ∧
    tableValid ⟨0x05D, 0x0CD, 0x0E9, 0x06B, 0x14B, 0x159⟩ .asymRail = true := by decide

/-- TV36: the invalid tables. -/
theorem test_tv36_invalid : tableValid ⟨0x05C, 0x0E1, 0x0CC, 0x063, 0x10B, 0x119⟩ .asymRail = false ∧
    tableValid ⟨0x064, 0x0CC, 0x0E1, 0x063, 0x10B, 0x119⟩ .asymRail = false ∧
    tableValid ⟨0x01C, 0x0CC, 0x0E1, 0x063, 0x10B, 0x119⟩ .asymRail = false ∧
    tableValid ⟨0x19C, 0x0CC, 0x0E1, 0x063, 0x10B, 0x119⟩ .asymRail = false ∧
    tableValid ⟨0x05C, 0x063, 0x05C, 0x063, 0x05C, 0x063⟩ .asymRail = false ∧
    tableValid ⟨0x05C, 0x0CC, 0x05C, 0x0CC, 0x05C, 0x0CC⟩ .asymRail = false := by decide

/-! ### The phase output encoder -/

/-- TV38, the columns D = 75 and D = 249 and the unreachable D = 0. -/
theorem test_tv38_encode : encodePhase (250 : Word) 75 .driveHigh = rec true false true 0 ∧
    encodePhase 250 75 .driveLow = rec true false false 0 ∧ encodePhase 250 75 .pwmPlus = rec true true false 75 ∧
    encodePhase 250 75 .pwmMinus = rec true true false 175 ∧ encodePhase 250 249 .pwmMinus = rec true true false 1 ∧
    encodePhase 250 0 .pwmMinus = rec true true false 250 ∧ encodePhase 250 75 .reserved7 = zero := by decide

/-- TV40, sector 4: a bracket of the symmetric table. -/
theorem test_tv40_symmetric : (run .tick (withCfg (st .on 4 75 80 1 1 5)
      { cfgT with driveMode := .symCompl, sectorTable := defaultTable .symCompl })).map (·.2.1) =
    some [0x000000, 0x002BD1, 0x000005, 0x0012D9, 0x000142] := by decide

/-- TV41: no bracket without a change. -/
theorem test_tv41_no_bracket : run .tick (on3 60 17) =
    some ((.on, 3, [75, 60, 1, 1, 18, 0]), [], (on3 60 17).out) := by decide

/-! ### Speed adjustment -/

/-- TV42: down to the bound, and no further. -/
theorem test_tv42_upper_speed : (run .speedInc (st .on 2 75 41 1 1 5)).map (·.1) = some (.on, 2, [75, 40, 1, 1, 5, 0]) ∧
    (run .speedInc (st .on 2 75 40 1 1 5)).map (·.1) = some (.on, 2, [75, 40, 1, 1, 5, 0]) := by decide

/-- TV43: up to the bound, and no further. -/
theorem test_tv43_lower_speed : (run .speedDec (st .on 2 75 511 1 1 5)).map (·.1) = some (.on, 2, [75, 512, 1, 1, 5, 0]) ∧
    (run .speedDec (st .on 2 75 512 1 1 5)).map (·.1) = some (.on, 2, [75, 512, 1, 1, 5, 0]) := by decide

/-- TV45: the clamp. -/
theorem test_tv45_manual_duty :
    [249, 250, 65535, 0].map (fun v => (run (.setManualDuty v) (st .rampup 3 50 200 2 4 17)).map (·.1)) =
    [249, 249, 249, 0].map (fun d => some (.rampup, 3, [50, 200, 2, 4, 17, d])) := by decide

/-- TV46, TICK 5: hand-off with a manual duty of 0. -/
theorem test_tv46_manual_zero :
    run .tick (withCfg (st .rampup 0 50 80 8 8 4 (rec true true false 50) (rec true false false 0)) cfgManual) =
    some ((.on, 0, [0, 80, 8, 8, 5, 0]), [0x000000, 0x000001, 0x000005, 0x000009, 0x000002], ⟨zero, zero, zero⟩) := by decide

/-- TV47, the last TICK: no bracket after a stop and a restart with no TICK between. -/
theorem test_tv47_restart : (run .tick (st .rampup 1 0 512 8 8 0 (rec true true false 50) zero (rec true false false 0))).map
      (fun r => (r.1, r.2.1)) = some ((.rampup, 1, [50, 512, 7, 8, 1, 0]), []) := by decide

/-! ### Directives, data words, the front end, the ports -/

/-- R111 to R113. -/
theorem test_directives : (run .disableAll (on3 60 17)).map (·.2.2) =
      some ⟨zero, rec false true false 75, zero⟩ ∧
    (run (.config .c true false 9) (on3 60 17)).map (·.2.2) =
      some ⟨rec true false false 0, rec true true false 75, rec false true false 9⟩ ∧
    (run (.enableSet 0b110) (on3 60 17)).map (·.2.2) =
      some ⟨rec false false false 0, rec true true false 75, rec true false false 0⟩ := by decide

/-- R114: TV6's word, and no register written. -/
theorem test_set_tick_period : run (.setTickPeriod 80) (on3 60 17) =
    some (obs (on3 60 17), [0x001403], (on3 60 17).out) := by decide

/-- TV5: the entry word 0x10B; TV38: `PwmMinus` at duty 75. -/
theorem test_eval : nextOf (step { on3 60 17 with inputs := [.eval (.sect 0x10B)] }) =
      some { on3 60 17 with result := some (.entry ⟨.driveLow, .float, .pwmPlus⟩) } ∧
    nextOf (step { on3 60 17 with inputs := [.eval (.pcs 5)] }) =
      some { on3 60 17 with result := some (.record (rec true true false 175)) } := by decide

/-- An entry word that is no row of the opcode table (TV36, `DriveHigh` as the rail), and `MotorState` code 3. -/
theorem test_eval_unlisted :
    nextOf (step { on3 60 17 with inputs := [.eval (.sect 0x054)] }) =
      some { on3 60 17 with result := some (.entry ⟨.pwmPlus, .driveHigh, .float⟩) } ∧
    refusalOf (step { on3 60 17 with inputs := [.eval (.mstate 3)] }) = some .reservedMotorStateCode := by decide

/-- R264: STOP first, the speed request dropped, TICK last; R102: a wide operand saturated. -/
theorem test_arbitration : arbitrate (w := 16) ⟨true, some 70000, true, true, true⟩ = [0x00002, 0x7FFFD, 0x00001] ∧
    arbitrate (w := 16) ⟨false, none, true, true, true⟩ = [0x00003, 0x00004, 0x00001] := by decide

/-- R33: the ports, bit 0 = A. -/
theorem test_ports : portDrvEn (on3 60 17).toRegs = 0b011 ∧ portPwmEn (on3 60 17).toRegs = 0b010 ∧
    portLevel (on3 60 17).toRegs = 0 ∧
    portWidth (on3 60 17).toRegs .b = 75 ∧ portPol (on3 60 17).toRegs = 0 ∧ portMotorState (on3 60 17).toRegs = 2 ∧
    portSector (on3 60 17).toRegs = 3 ∧ portDuty (on3 60 17).toRegs = 75 ∧ portPeriod (on3 60 17).toRegs = 60 ∧
    portCfgOk (on3 60 17).cfg = true := by decide

/-- A presented word is the first instruction that runs. -/
theorem test_with_fetch_word :
    nextOf (step ((st .off 0 0 0 0 0 0).withFetchWord 24 0x00325)) =
      nextOf (exec (.setManualDuty 100) (st .off 0 0 0 0 0 0)) ∧
    nextOf (step ((st .off 0 0 0 0 0 0).withFetchWord 16 0x0CC)) = nextOf (exec .asymRail1 (st .off 0 0 0 0 0 0)) ∧
    nextOf (step ((st .off 0 0 0 0 0 0).withFetchWord 8 4)) = nextOf (exec .phasePwmPlus (st .off 0 0 0 0 0 0)) := by decide

/-- `CFG_T` at `W = 10`: every value of it fits ten bits. -/
def cfg10 : Cfg 10 where
  pwmPeriod := 250
  loSpdTm := 512
  handoffTm := 80
  maxSpdTm := 40
  rampStepTmStart := 8
  rampStepTmMin := 1
  rampDc := 50
  runDc := 75
  rampMode := .geometric
  tickModel := .counted
  driveMode := .asymRail
  manualMode := false
  sectorTable := defaultTable .asymRail

/-- The core at another `W` (R8): the 13-bit words SPEED_INC, TICK, SET_MANUAL_DUTY 1023; TV10, TV11 and the clamp. -/
theorem test_core_other_width :
    (coreRun cfg10 [3] .reset).motorState = .rampup ∧ (coreRun cfg10 [3] .reset).period = 512 ∧
    (coreRun cfg10 [3, 1] .reset).rampTimer = 7 ∧ (coreRun cfg10 [3, 1] .reset).duty = 50 ∧
    (coreRun cfg10 [3, 1] .reset).out.a = ⟨true, true, false, 50⟩ ∧
    (coreRun cfg10 [0b1111111111101] .reset).manualDuty = 249 := by decide

/-! ### Witnesses: concrete data that meet the hypotheses of the obligations -/

/-- A state with a command at the port. -/
def withCmd (s : State) (w : CmdWord) : State := { s with inputs := [.cmd w] }

theorem test_witness_StepRunsDecodedCommand : (withCmd (on5 79) 0x00001).inputs = .cmd 0x00001 :: [] := by decide

theorem test_witness_PresentedWordRuns : 0x7FFFD < 2 ^ 19 ∧ 7 < 2 ^ 3 ∧ decodeSect 0x129 = .ok .symCompl5 := by decide

theorem test_witness_IdleWithoutInput : (on5 79).inputs = [] := by decide

theorem test_witness_StepEvaluatesDataWord : { on5 79 with inputs := [.eval (.mstate 2)] }.inputs = .eval (.mstate 2) :: [] ∧
    decodeData (.mstate 2) = .ok .motorStateOn := by decide

theorem test_witness_EntryWordsEvaluate : { on5 79 with inputs := [.eval (.sect 0x1FF)] }.inputs =
    .eval (.sect 0x1FF) :: [] := by decide

theorem test_witness_CommandsComplete : Instr.format .reserved7 = .cmd ∧
    (∀ d rest, (withCmd (on5 79) 0x7FFFF).inputs ≠ .eval d :: rest) ∧ ∀ d rest, (on5 79).inputs ≠ .eval d :: rest := by
  refine ⟨rfl, ?_, ?_⟩ <;> intro d rest h <;> cases h

theorem test_witness_StepArbitratesRequests :
    { on5 79 with inputs := [.requests ⟨true, none, true, false, true⟩] }.inputs =
      .requests ⟨true, none, true, false, true⟩ :: [] := by decide

theorem test_witness_ResetPort : { on5 79 with inputs := [.rst, .rst] }.inputs = .rst :: [.rst] := by decide

theorem test_witness_SpeedIncEffect_off : (st .off 0 0 0 0 0 0).motorState = .off ∧
    configValid (st .off 0 0 0 0 0 0).cfg = true ∧ configValid (withCfg (st .off 0 0 0 0 0 0) cfgInvalid).cfg = false ∧
    (withCfg (st .off 0 0 0 0 0 0) cfgInvalid).motorState = .off ∧ (ramp2 80 1 1 10).motorState = .rampup := by decide

theorem test_witness_SpeedIncEffect_on : (on3 40 17).motorState = .on ∧ (on3 40 17).period ≤ (on3 40 17).cfg.maxSpdTm ∧
    (on3 41 17).motorState = .on ∧ (on3 41 17).cfg.maxSpdTm < (on3 41 17).period := by decide

theorem test_witness_SpeedDecEffect_on : (on3 512 17).motorState = .on ∧ (on3 512 17).cfg.loSpdTm ≤ (on3 512 17).period ∧
    (on3 511 17).motorState = .on ∧ (on3 511 17).period < (on3 511 17).cfg.loSpdTm := by decide

theorem test_witness_SpeedDecEffect_off : (st .off 0 0 512 8 8 0).motorState = .off ∧
    configValid (st .off 0 0 512 8 8 0).cfg = true ∧ configValid (withCfg (st .off 0 0 0 0 0 0) cfgInvalid).cfg = false ∧
    (withCfg (st .off 0 0 0 0 0 0) cfgInvalid).motorState = .off ∧ (ramp2 300 0 1 7).motorState = .rampup := by decide

theorem test_witness_SetManualDutyEffect : (on3 60 17).cfg.pwmPeriod ≠ 0 ∧
    (withCfg (on3 60 17) { cfgT with pwmPeriod := 1 }).cfg.pwmPeriod ≠ 0 := by decide

theorem test_witness_SetManualDutyZeroPeriod :
    (withCfg (on3 60 17) { cfgT with pwmPeriod := 0 }).cfg.pwmPeriod = 0 := by decide

theorem test_witness_CommandFrame : Instr.format .stop = .cmd ∧ Instr.stop ≠ .tick ∧
    exec .stop (on3 60 17) = .next { on3 60 17 with motorState := .off, duty := 0 } ∧
    exec (.setManualDuty 9) (on3 60 17) = .next { on3 60 17 with manualDuty := 9 } := ⟨rfl, by decide, rfl, rfl⟩

theorem test_witness_TickInOff : (st .off 4 0 80 1 1 46 zero zero (rec true true false 75)).motorState = .off := by decide

theorem test_witness_TickRampFixed : (withCfg (ramp2 81 8 8 47) cfgFixed).motorState = .rampup ∧
    (withCfg (ramp2 81 8 8 47) cfgFixed).cfg.handoffTm < (withCfg (ramp2 81 8 8 47) cfgFixed).period ∧
    (withCfg (ramp2 81 8 8 47) cfgFixed).cfg.rampMode = .fixed := by decide

theorem test_witness_TickRampGeometric : (ramp2 81 0 1 10).motorState = .rampup ∧
    (ramp2 81 0 1 10).cfg.handoffTm < (ramp2 81 0 1 10).period ∧ (ramp2 81 0 1 10).cfg.rampMode = .geometric ∧
    (ramp2 81 0 1 10).rampTimer = 0 ∧ (ramp2 81 1 1 10).rampTimer ≠ 0 ∧ (ramp2 81 1 1 10).motorState = .rampup ∧
    (ramp2 81 1 1 10).cfg.handoffTm < (ramp2 81 1 1 10).period ∧ (ramp2 81 1 1 10).cfg.rampMode = .geometric := by decide

theorem test_witness_TickHandoff : (ramp2 80 1 1 10).motorState = .rampup ∧
    (ramp2 80 1 1 10).period ≤ (ramp2 80 1 1 10).cfg.handoffTm := by decide

theorem test_witness_TickInOn : (on5 78).motorState = .on := by decide

theorem test_witness_CommutationCounted : (on5 79).cfg.tickModel = .counted ∧ (on5 79).motorState ≠ .off ∧
    ((on5 79).update tick).period ≤ (on5 79).tickCounter + 1 ∧ (on5 78).cfg.tickModel = .counted ∧
    (on5 78).motorState ≠ .off ∧
    ¬ ((on5 78).update tick).period ≤ (on5 78).tickCounter + 1 ∧ (st .off 4 0 80 1 1 46).motorState = .off ∧
    (st .off 4 0 80 1 1 46).cfg.tickModel = .counted := by decide

theorem test_witness_CommutationReprogram : (withCfg (ramp2 81 1 1 0) cfgReprogram).cfg.tickModel = .reprogram := by decide

theorem test_witness_ComplementaryWidths : (0 : Word) < 1 ∧ (249 : Word) < 250 ∧ (125 : Word) < 250 := by decide

/-- Every bound of V1 to V3 reached, and one of each exceeded. -/
theorem test_witness_DefaultTablesValid : configValid cfgT = true ∧
    configValid { cfgT with
      rampDc := 249, runDc := 249, maxSpdTm := 80, handoffTm := 80, loSpdTm := 81, rampStepTmMin := 8 } = true ∧
    configValid { cfgT with rampDc := 250 } = false ∧ configValid { cfgT with maxSpdTm := 81 } = false ∧
    configValid { cfgT with rampStepTmMin := 9 } = false ∧ configValid { cfgT with driveMode := .symCompl } = false := by
  decide

theorem test_witness_ValidTableDrivesTwoPhases : tableValid (defaultTable .symCompl) .symCompl = true ∧
    tableValid (defaultTable .asymRail) .asymRail = true ∧ (5 : BitVec 3).toNat ≤ 5 ∧ (0 : BitVec 3).toNat ≤ 5 ∧
    (0 : BitVec 3) ≠ 5 := by decide

theorem test_witness_ValidTableHandsOverOneRole : tableValid (defaultTable .asymRail) .asymRail = true ∧
    (5 : BitVec 3).toNat ≤ 5 ∧ (0 : BitVec 3).toNat = ((5 : BitVec 3).toNat + 1) % 6 ∧
    (1 : BitVec 3).toNat = ((0 : BitVec 3).toNat + 1) % 6 := by decide

/-- The role of a phase in a sector of the default asymmetric table. -/
def asymRole (u : BitVec 3) (ch : Channel) : Role := role .asymRail (match ch with
  | .a => (tableRead (defaultTable .asymRail) u).a
  | .b => (tableRead (defaultTable .asymRail) u).b
  | .c => (tableRead (defaultTable .asymRail) u).c)

/-- The premises of the second half: the hand-over from each sector, the roles of an entry, no two alike. -/
theorem test_witness_ValidTableHandsOverOneRole_steps :
    [(0, 1, Channel.a, Channel.c, Channel.b), (1, 2, .c, .b, .a), (2, 3, .b, .a, .c), (3, 4, .a, .c, .b), (4, 5, .c, .b, .a),
      (5, 0, .b, .a, .c)].all (fun (s, s', k, x, y) => asymRole s k == asymRole s' k && asymRole s k != .floating &&
        asymRole s x == asymRole s' y && asymRole s y == asymRole s' x && asymRole s x == .floating &&
        asymRole s y != .floating) = true ∧
    sectors.all (fun s => (tableRead (defaultTable .asymRail) s).count (· == .float) == 1 &&
      (tableRead (defaultTable .asymRail) s).count (fun q => q == .pwmPlus || q == .pwmMinus) == 1 &&
      (tableRead (defaultTable .asymRail) s).count (fun q => q == .driveHigh || q == .driveLow) == 1 &&
      sectors.all (fun s' => s == s' || [Channel.a, .b, .c].any (fun ch => asymRole s ch != asymRole s' ch))) = true := by
  decide

theorem test_witness_ZeroDutyDrivesNothing : ((st .off 4 0 80 1 1 46).update tick).duty = 0 ∧
    ((withCfg (on5 78) cfgManual).update tick).duty = 0 := by decide

/-- A state that meets I1 to I8 while ON, with driven outputs (TV13 comes from it). -/
theorem test_witness_Inv_on : Inv (on5 79) where
  valid := by decide
  sector := by decide
  duty := by decide
  off := by intro h; cases h
  rampup := by intro h; cases h
  on := by intro _; decide
  counter := by decide
  ramp := by intro _; decide
  out := by
    intro ch
    cases ch
    · exact ⟨⟨.off, 75, by decide, by decide⟩, by decide⟩
    · exact ⟨⟨.driveLow, 75, by decide, by decide⟩, by decide⟩
    · exact ⟨⟨.pwmPlus, 75, by decide, by decide⟩, by decide⟩

/-- A state that meets I1 to I8 while ramping, in the `REPROGRAM` model. -/
theorem test_witness_Inv_rampup : Inv (withCfg (ramp2 80 1 1 0) cfgReprogram) where
  valid := by decide
  sector := by decide
  duty := by decide
  off := by intro h; cases h
  rampup := by intro _; decide
  on := by intro h; cases h
  counter := by decide
  ramp := by intro _; decide
  out := by
    intro ch
    cases ch
    · exact ⟨⟨.off, 50, by decide, by decide⟩, by decide⟩
    · exact ⟨⟨.pwmPlus, 50, by decide, by decide⟩, by decide⟩
    · exact ⟨⟨.driveLow, 50, by decide, by decide⟩, by decide⟩

theorem test_witness_StepKeepsInvariants_step :
    step (withCmd (on5 79) 0x00002) = .next { on5 79 with motorState := .off, duty := 0 } := rfl

/-- The hypotheses of StepKeepsInvariants together. -/
theorem test_witness_StepKeepsInvariants : Inv (withCmd (on5 79) 0x00002) ∧ ∃ t, step (withCmd (on5 79) 0x00002) = .next t :=
  ⟨⟨test_witness_Inv_on.valid, test_witness_Inv_on.sector, test_witness_Inv_on.duty, test_witness_Inv_on.off,
    test_witness_Inv_on.rampup, test_witness_Inv_on.on, test_witness_Inv_on.counter, test_witness_Inv_on.ramp,
    test_witness_Inv_on.out⟩, _, test_witness_StepKeepsInvariants_step⟩

theorem test_witness_InvariantsAtReset : configValid cfgT = true ∧ configValid cfgReprogram = true := by decide

theorem test_witness_CounterBelowPeriodAfterTick : Inv (on5 79) ∧ ((on5 79).update tick).cfg.tickModel = .counted ∧
    ((on5 79).update tick).motorState ≠ .off := ⟨test_witness_Inv_on, by decide, by decide⟩

/-- A stream with one bracket, and a step that adds another. -/
theorem test_witness_StreamStaysBracketed :
    bracketed { withCmd (on5 79) 1 with directives := bracket (on5 79).out }.directives = true ∧
    ∃ t, step { withCmd (on5 79) 1 with directives := bracket (on5 79).out } = .next t := ⟨by decide, _, rfl⟩

/-- A stream that is not whole brackets is told apart. -/
theorem test_bracketed_refuses : bracketed (w := 16) [.disableAll, .enableSet 0] = false ∧
    bracketed (w := 16) [.config .a true false 50] = false ∧
    bracketed (w := 16) [.disableAll, .config .b false false 0] = false := by decide

theorem test_witness_ConfigLandsUndriven : ((on5 79).update tick).directives =
    (on5 79).directives ++ ([.disableAll] ++ .config .a true false 75 ::
      [.config .b false false 0, .config .c false false 0, .enableSet 3]) := by decide

theorem test_witness_ConfigurationFixedStreamGrows : step (withCmd (on5 79) 1) = .next ((on5 79).update tick) := rfl

theorem test_witness_MotorStateTransitions_stop : step (withCmd (on5 79) 2) = .next ((on5 79).update (fun _ => stop)) ∧
    ((on5 79).update (fun _ => stop)).motorState ≠ (withCmd (on5 79) 2).motorState := ⟨rfl, by decide⟩

theorem test_witness_MotorStateTransitions_start :
    step (withCmd (st .off 0 0 0 0 0 0) 3) = .next (st .rampup 0 0 512 8 8 0) ∧
    (st .rampup 0 0 512 8 8 0).motorState ≠ (withCmd (st .off 0 0 0 0 0 0) 3).motorState := ⟨rfl, by decide⟩

theorem test_witness_MotorStateTransitions_handoff :
    step (withCmd (ramp2 80 1 1 10) 1) = .next ((ramp2 80 1 1 10).update tick) ∧
    ((ramp2 80 1 1 10).update tick).motorState ≠ (withCmd (ramp2 80 1 1 10) 1).motorState := ⟨rfl, by decide⟩

theorem test_witness_MotorStateTransitions_reset : ∃ t, step { on5 79 with inputs := [.rst] } = .next t ∧
    t.motorState ≠ (on5 79).motorState := ⟨_, rfl, by decide⟩

theorem test_witness_InvalidConfigurationStaysOff :
    configValid (withCmd (withCfg (st .off 0 0 0 0 0 0) cfgInvalid) 3).cfg = false ∧
    (withCmd (withCfg (st .off 0 0 0 0 0 0) cfgInvalid) 3).motorState = .off ∧
    (withCmd (withCfg (st .off 0 0 0 0 0 0) cfgInvalid) 3).duty = 0 ∧
    (withCmd (withCfg (st .off 0 0 0 0 0 0) cfgInvalid) 3).out = ⟨zero, zero, zero⟩ ∧
    step (withCmd (withCfg (st .off 0 0 0 0 0 0) cfgInvalid) 3) = .next (withCfg (st .off 0 0 0 0 0 0) cfgInvalid) :=
  ⟨by decide, by decide, by decide, by decide, rfl⟩

theorem test_witness_RampPeriodNeverRises : (withCmd (ramp2 81 0 1 10) 1).motorState = .rampup ∧
    ((ramp2 81 0 1 10).update tick).motorState = .rampup ∧
    step (withCmd (ramp2 81 0 1 10) 1) = .next ((ramp2 81 0 1 10).update tick) ∧
    (withCmd (ramp2 81 0 1 10) 1).cfg.handoffTm ≤ (withCmd (ramp2 81 0 1 10) 1).period :=
  ⟨by decide, by decide, rfl, by decide⟩

theorem test_witness_SectorAdvancesByOne : step (withCmd (on5 79) 1) = .next ((on5 79).update tick) ∧
    step { on5 79 with inputs := [.rst] } = .next ((on5 79).update (fun _ => resetRegisters)) := ⟨rfl, rfl⟩

theorem test_witness_FixedRampLength : (withCfg (st .rampup 0 0 512 8 8 0) cfgFixed).motorState = .rampup ∧
    (withCfg (st .rampup 0 0 512 8 8 0) cfgFixed).period = cfgFixed.loSpdTm ∧ cfgFixed.handoffTm < cfgFixed.loSpdTm ∧
    cfgFixed.rampMode = .fixed ∧ 432 ≤ cfgFixed.loSpdTm.toNat - cfgFixed.handoffTm.toNat := by decide

theorem test_witness_GeometricRampLength : (st .rampup 0 0 512 8 8 0).motorState = .rampup ∧
    (st .rampup 0 0 512 8 8 0).period = cfgT.loSpdTm ∧ cfgT.handoffTm < cfgT.loSpdTm ∧ cfgT.rampMode = .geometric ∧
    (st .rampup 0 0 512 8 8 0).rampTimer = cfgT.rampStepTmStart ∧
    (st .rampup 0 0 512 8 8 0).rampInterval = cfgT.rampStepTmStart ∧
    432 ≤ cfgT.loSpdTm.toNat - cfgT.handoffTm.toNat := by decide

/-- R174: the first decrements of the geometric ramp of `CFG_T` take 9, 5, 3 and 2 TICKs. -/
theorem test_geometric_ticks : [0, 1, 2, 3, 4].map (geometricTicks cfgT) = [0, 9, 14, 17, 19] := by decide

/-- Items 1, 2 and 4 of R144: the states START begins with, the ramping states at and above the threshold, and the
configuration of the scenario. -/
theorem test_witness_StateMachineProperties : (st .off 0 0 512 8 8 0).motorState = .off ∧ configValid cfgFixed = true ∧
    cfgFixed.rampMode = .fixed ∧ cfgFixed.loSpdTm.toNat = 512 ∧ cfgFixed.handoffTm.toNat = 80 ∧
    (ramp2 81 0 1 10).motorState = .rampup ∧ cfgT.handoffTm ≤ (ramp2 81 0 1 10).period ∧
    (runTicks cfgT 1 (ramp2 81 0 1 10).toRegs).motorState = .rampup ∧ (ramp2 80 1 1 10).motorState = .rampup ∧
    (ramp2 80 1 1 10).period = cfgT.handoffTm ∧ cfgT.manualMode = false := by decide

theorem test_witness_ManualZeroDutyHoldsSector : (withCfg (on5 79) cfgManual).cfg.manualMode = true ∧
    (withCfg (on5 79) cfgManual).motorState = .on ∧ (withCfg (on5 79) cfgManual).manualDuty = 0 := by decide

end Sys2Proof.Tests
end

