-- ==== Sys2Proof/Proofs/ConfigCheck.lean ====
section
/-! `ConfigValid` (00_scope.md R9) in the spec's words, and which mode each default table is valid in (42_sector_table.md
R193, R194, R196). -/

namespace Sys2Proof.Machine

/-! ### The four conditions of R9 -/

/-- The upper bound `2^W - 1` of R9 is the width of the field. -/
theorem toNat_le_two_pow_sub_one {w : Nat} (x : BitVec w) : x.toNat ≤ 2 ^ w - 1 := Nat.le_sub_one_of_lt x.isLt

section
variable {w : Nat} (c : Cfg w)

theorem configV1_iff : configV1 c = true ↔
    2 ≤ c.pwmPeriod.toNat ∧ c.pwmPeriod.toNat ≤ 2 ^ w - 1 ∧ 1 ≤ c.rampDc.toNat ∧ c.rampDc.toNat ≤ c.pwmPeriod.toNat - 1 ∧
      1 ≤ c.runDc.toNat ∧ c.runDc.toNat ≤ c.pwmPeriod.toNat - 1 := by
  have hPeriod := toNat_le_two_pow_sub_one c.pwmPeriod
  simp only [configV1, Bool.and_eq_true, decide_eq_true_eq]
  omega

theorem configV2_iff : configV2 c = true ↔
    1 ≤ c.maxSpdTm.toNat ∧ c.maxSpdTm.toNat ≤ c.handoffTm.toNat ∧ c.handoffTm.toNat < c.loSpdTm.toNat ∧
      c.loSpdTm.toNat ≤ 2 ^ w - 1 := by
  simp [configV2, toNat_le_two_pow_sub_one c.loSpdTm, and_assoc]

theorem configV3_iff : configV3 c = true ↔
    c.rampStepTmMin.toNat ≤ c.rampStepTmStart.toNat ∧ c.rampStepTmStart.toNat ≤ 2 ^ w - 1 := by
  simp [configV3, toNat_le_two_pow_sub_one c.rampStepTmStart]

theorem configValid_iff : configValid c = true ↔
    configV1 c = true ∧ configV2 c = true ∧ configV3 c = true ∧ tableValid c.sectorTable c.driveMode = true := by
  simp only [configValid, configV4, Bool.and_eq_true, and_assoc]

end

/-! ### The default tables -/

/-- R196 T1 to T3 speak of every sector's entry on its own. -/
theorem tableValid_entry {t : SectorTable} {m : DriveMode} (h : tableValid t m = true) {s : BitVec 3} (hs : s ∈ sectors) :
    tableT1 (tableRead t s) = true ∧ tableT23 m (tableRead t s) = true := by
  simp only [tableValid, Bool.and_eq_true, List.all_eq_true] at h
  obtain ⟨⟨hEntries, -⟩, -⟩ := h
  exact hEntries s hs

theorem tableValid_defaultTable (m : DriveMode) : tableValid (defaultTable m) m = true := by
  cases m <;> decide

/-- The entry of sector 0 shows it: (`PwmPlus`, `PwmMinus`, Float) has two modulated phases in the asymmetric mode, and
(`PwmPlus`, `DriveLow`, Float) has no `PwmMinus` in the symmetric one. -/
theorem tableT23_defaultTable_of_ne {m m' : DriveMode} (h : m ≠ m') :
    tableT23 m' (tableRead (defaultTable m) 0) = false := by
  match m, m' with
  | .asymRail, .symCompl => decide
  | .symCompl, .asymRail => decide

theorem tableValid_defaultTable_of_ne {m m' : DriveMode} (h : m ≠ m') : tableValid (defaultTable m) m' = false := by
  refine Bool.eq_false_iff.mpr fun hValid => ?_
  obtain ⟨-, hT23⟩ := tableValid_entry hValid (s := 0) (by decide)
  rw [tableT23_defaultTable_of_ne h] at hT23
  contradiction

/-- Settles O39: each condition of R9 by its own equivalence, the tables by their entries. -/
theorem defaultTablesValid : Obligations.DefaultTablesValid := by
  refine ⟨fun w c => ?_, tableValid_defaultTable _, tableValid_defaultTable _, tableValid_defaultTable_of_ne nofun,
    tableValid_defaultTable_of_ne nofun⟩
  rw [configValid_iff, configV1_iff, configV2_iff, configV3_iff]

end Sys2Proof.Machine
end

