-- ==== Sys2Proof/Proofs/Encoding.lean ====
section
/-! The command word (30_encoding.md R101): its value, which of its bits the decoder reads, and the opcodes that do nothing
(R103, R104). -/

namespace Sys2Proof

/-- The opcode stands in the three low bits, the operand above them (R101). -/
theorem cmdWord_toNat {w : Nat} (v : BitVec w) (k : BitVec 3) : (cmdWord v k).toNat = v.toNat * 8 + k.toNat := by
  rw [cmdWord, BitVec.toNat_append, ← Nat.shiftLeft_add_eq_or_of_lt k.isLt, Nat.shiftLeft_eq]

/-- The operand bits are ignored for every opcode but that of SET_MANUAL_DUTY (R101). -/
theorem decodeCmd_operand_ignored (v u : Word) {k : BitVec 3} (h : k ≠ 5) :
    decodeCmd (cmdWord v k) = decodeCmd (cmdWord u k) := by
  simp only [decodeCmd, cmdWord_opcode]
  split
  case h_6 hk => exact absurd (BitVec.eq_of_toNat_eq hk) h
  all_goals rfl

theorem decodeCmd_setManualDuty (v : Word) : decodeCmd (cmdWord v 5) = .setManualDuty v := by
  rw [decodeCmd, cmdWord_opcode, cmdWord_operand]
  rfl

/-- The opcode map at every operand is the one at operand 0, SET_MANUAL_DUTY apart. -/
theorem decodeCmd_of_canonical {i : Instr} {k : BitVec 3} (h : k ≠ 5) (hi : decodeCmd (cmdWord 0 k) = i) (v : Word) :
    decodeCmd (cmdWord v k) = i :=
  (decodeCmd_operand_ignored v 0 h).trans hi

/-- Settles O2: the eight words at operand 0 are decoded as they stand, and `decodeCmd_operand_ignored` carries them to every
operand. -/
theorem opcodeMap : Obligations.OpcodeMap := by
  refine ⟨fun v => ⟨?_, ?_, ?_, ?_, ?_, decodeCmd_setManualDuty v, ?_, ?_⟩,
    fun x => ⟨x.extractLsb' 3 16, x.extractLsb' 0 3, (cmdWord_fields x).symm⟩,
    rfl, rfl, rfl, rfl, rfl, fun v => cmdWord_toNat v 5, rfl⟩
  all_goals exact decodeCmd_of_canonical (by decide) rfl v

end Sys2Proof

namespace Sys2Proof.Machine

theorem exec_nop (s : State) : exec .nop s = .next s := rfl

theorem exec_reserved6 (s : State) : exec .reserved6 s = .next s := rfl

theorem exec_reserved7 (s : State) : exec .reserved7 s = .next s := rfl

/-- Settles O14: the rule of each of the three is the identity on the state (R104, R141). -/
theorem nopAndReserved : Obligations.NopAndReserved := fun s => ⟨exec_nop s, exec_reserved6 s, exec_reserved7 s⟩

end Sys2Proof.Machine
end

