-- ==== Sys2Proof/Proofs/TickArms.lean ====
section
/-! The three arms of TICK (40_state_machine.md R132 to R135) as the whole command leaves them, and STOP with the TICK after
it (R139). -/

namespace Sys2Proof.Machine

variable {w : Nat}

/-! ### The commands as rules of the core -/

theorem exec_tick (s : State) : exec .tick s = .next (s.update tick) := rfl

theorem exec_speedInc (s : State) : exec .speedInc s = .next (s.update speedInc) := rfl

theorem exec_stop (s : State) : exec .stop s = .next (s.update fun _ => stop) := rfl

/-! ### The whole of TICK -/

theorem announcePeriod_eq (c : Cfg w) (s : Regs w) :
    announcePeriod c s = s.setDirectives (s.directives ++ announceDirectives c s) := by
  unfold announcePeriod announceDirectives
  cases c.tickModel with
  | counted => simp [Regs.setDirectives]
  | reprogram => rfl

/-- TICK is its first two phases, then a write of the outputs and of the stream (R131). -/
theorem tick_eq_of_commutate {c : Cfg w} {s r : Regs w} (h : tickCommutate c (tickLogic c s) = r) :
    tick c s = (r.setOut (desiredOuts c r)).setDirectives
      (r.directives ++ announceDirectives c r ++ updateDirectives c r) := by
  rw [tick, h, updateOutputs_eq, desiredOuts_announcePeriod, updateDirectives_announcePeriod, announcePeriod_eq]
  rfl

/-- The only change of `MotorState` in a TICK is the hand-off (R130, R131). -/
theorem tickLogic_motorState (c : Cfg w) (s : Regs w) : (tickLogic c s).motorState =
    if s.motorState = .rampup ∧ ¬ c.handoffTm < s.period then .on else s.motorState := by
  cases h : s.motorState with
  | off => simp [tickLogic_off h, tickOff, h]
  | rampup =>
    by_cases hp : c.handoffTm < s.period
    · simp [tickLogic_ramp h hp, tickRamp, h, hp]
    · simp [tickLogic_handoff h hp, tickHandoff, hp]
  | on => simp [tickLogic_on h, tickOn, apply_ite, h]

/-! ### OFF -/

/-- In OFF no tick model moves the sector or the counter: `COUNTED` does not count, and the commutation step that
`REPROGRAM` takes has a zero duty (R136 to R138). -/
theorem tickCommutate_off_of_duty_zero (c : Cfg w) {s : Regs w} (h : s.motorState = .off) (hd : s.duty = 0) :
    tickCommutate c s = s := by
  cases hm : c.tickModel with
  | counted => exact tickCommutate_off hm h
  | reprogram => rw [tickCommutate_reprogram hm, commStep, if_pos hd]

/-- A zero duty looks up (Off, Off, Off), which is encoded as no output at all (42_sector_table.md R191, R211). -/
theorem desiredOuts_of_duty_zero (c : Cfg w) {s : Regs w} (hd : s.duty = 0) : desiredOuts c s = .allOff := by
  rw [desiredOuts, sectorLookup, if_pos hd]
  rfl

/-- The commutation phase has nothing to do after TICK_OFF. -/
theorem tickCommutate_tickLogic_off (c : Cfg w) {s : Regs w} (h : s.motorState = .off) :
    tickCommutate c (tickLogic c s) = tickOff c s := by
  rw [tickLogic_off h]
  exact tickCommutate_off_of_duty_zero c h rfl

theorem announceDirectives_eq_ite (c : Cfg w) (s : Regs w) :
    announceDirectives c s = if c.tickModel = .reprogram then [.setTickPeriod s.period] else [] := by
  unfold announceDirectives
  cases c.tickModel <;> rfl

theorem tick_period_of_off {c : Cfg w} {s : Regs w} (h : s.motorState = .off) : (tick c s).period = c.loSpdTm := by
  rw [tick_period, tickLogic_off h]
  rfl

/-! ### The hand-off and ON -/

section
variable {c : Cfg w} {s : Regs w}

/-- What TICK does to the registers of phase 1 at or below the threshold (R134). -/
theorem tick_handoff (h : s.motorState = .rampup) (hp : s.period ≤ c.handoffTm) :
    (tick c s).motorState = .on ∧ (tick c s).duty = runDuty c s ∧ (tick c s).period = s.period ∧
      (tick c s).rampTimer = s.rampTimer ∧ (tick c s).rampInterval = s.rampInterval := by
  simp [tickLogic_handoff h (BitVec.not_lt.mpr hp), tickHandoff]

/-- What TICK does to the registers of phase 1 in ON (R135). -/
theorem tick_on (h : s.motorState = .on) :
    (tick c s).motorState = .on ∧ (tick c s).duty = (if c.manualMode then s.manualDuty else s.duty) ∧
      (tick c s).period = s.period ∧ (tick c s).rampTimer = s.rampTimer ∧
      (tick c s).rampInterval = s.rampInterval := by
  simp only [tick_motorState, tick_duty, tick_period, tick_rampTimer, tick_rampInterval, tickLogic_on h, tickOn]
  split <;> simp [h]

end

end Sys2Proof.Machine

/-! ### The obligations, in a namespace of their own beside the rule `Machine.tickHandoff` -/

namespace Sys2Proof.TickArms

open Sys2Proof.Machine

/-- Settles O21: TICK_OFF, no commutation, and the outputs of a zero duty. -/
theorem tickInOff : Obligations.TickInOff := by
  intro s h
  have hOuts : desiredOuts s.cfg (tickOff s.cfg s.toRegs) = .allOff := desiredOuts_of_duty_zero _ rfl
  rw [exec_tick, State.update, tick_eq_of_commutate (tickCommutate_tickLogic_off s.cfg h), updateDirectives, hOuts,
    announceDirectives_eq_ite]
  simp only [eq_comm (a := Outs.allOff)]
  rfl

/-- Settles O15: STOP writes two registers, and the TICK after it is one in OFF. -/
theorem stopEffect : Obligations.StopEffect := fun s => ⟨exec_stop s, _, exec_tick _, tick_period_of_off rfl⟩

/-- Settles O24: phase 1 is TICK_HANDOFF, and the later phases write none of these registers. -/
theorem tickHandoff : Obligations.TickHandoff := fun s h hp => ⟨_, exec_tick s, tick_handoff h hp⟩

/-- Settles O25: phase 1 is TICK_ON, and the later phases write none of these registers. -/
theorem tickInOn : Obligations.TickInOn := fun s h => ⟨_, exec_tick s, tick_on h⟩

end Sys2Proof.TickArms
end

