-- ==== Sys2Proof/Proofs/Commutation.lean ====
section
/-! The commutation phase of TICK (40_state_machine.md R136 to R138): when the counter is cleared, when the sector advances,
and what a step of the machine can do to the sector (10_state.md R22). -/

namespace Sys2Proof.Machine

variable {w : Nat}

/-! ### The counter and the sector over a TICK -/

/-- TICK enters and leaves OFF in no arm (R130, R131). -/
theorem tickLogic_motorState_off_iff (c : Cfg w) (s : Regs w) :
    (tickLogic c s).motorState = .off ↔ s.motorState = .off := by
  rw [tickLogic_motorState]
  split
  · rename_i h
    simp [h.1]
  · rfl

theorem toNat_commStep_sector (s : Regs w) :
    (commStep s).sector.toNat = if s.duty = 0 then s.sector.toNat else (s.sector.toNat + 1) % 6 := by
  rw [commStep_sector, apply_ite BitVec.toNat, toNat_nextSector]

section
variable {c : Cfg w} {s : Regs w}

/-- A TICK in OFF commutates nothing, whatever the tick model. -/
theorem tick_counter_sector_of_off (h : s.motorState = .off) :
    (tick c s).tickCounter = 0 ∧ (tick c s).sector = s.sector := by
  rw [tick_tickCounter, tick_sector, tickCommutate_tickLogic_off c h]
  exact ⟨rfl, rfl⟩

/-- Outside OFF phase 2 of a `COUNTED` TICK counts from the counter TICK began with, up to the period phase 1 left (R136). -/
theorem tickCommutate_tickLogic_counted (hm : c.tickModel = .counted) (h : s.motorState ≠ .off) :
    tickCommutate c (tickLogic c s) =
      if (tick c s).period ≤ s.tickCounter + 1 then commStep ((tickLogic c s).setTickCounter 0)
      else (tickLogic c s).setTickCounter (s.tickCounter + 1) := by
  rw [tickCommutate_counted hm ((tickLogic_motorState_off_iff c s).not.mpr h), tick_period, tickLogic_tickCounter, if_neg h]

/-- A `COUNTED` TICK that is due clears the counter and takes the commutation step. -/
theorem tick_counted_due (hm : c.tickModel = .counted) (h : s.motorState ≠ .off)
    (hp : (tick c s).period ≤ s.tickCounter + 1) :
    (tick c s).tickCounter = 0 ∧
      (tick c s).sector.toNat = if (tick c s).duty = 0 then s.sector.toNat else (s.sector.toNat + 1) % 6 := by
  rw [tick_tickCounter, tick_sector, tickCommutate_tickLogic_counted hm h, if_pos hp, toNat_commStep_sector]
  simp

/-- A `COUNTED` TICK that is not due counts and keeps the sector. -/
theorem tick_counted_not_due (hm : c.tickModel = .counted) (h : s.motorState ≠ .off)
    (hp : ¬ (tick c s).period ≤ s.tickCounter + 1) :
    (tick c s).tickCounter = s.tickCounter + 1 ∧ (tick c s).sector = s.sector := by
  rw [tick_tickCounter, tick_sector, tickCommutate_tickLogic_counted hm h, if_neg hp]
  simp

/-- Every `REPROGRAM` TICK takes the commutation step, at the duty phase 1 left (R137). -/
theorem tick_sector_reprogram (hm : c.tickModel = .reprogram) :
    (tick c s).sector.toNat = if (tick c s).duty = 0 then s.sector.toNat else (s.sector.toNat + 1) % 6 := by
  rw [tick_sector, tickCommutate_reprogram hm, toNat_commStep_sector, tick_duty, tickLogic_sector]

/-- No `REPROGRAM` TICK counts. -/
theorem tick_tickCounter_reprogram (hm : c.tickModel = .reprogram) :
    (tick c s).tickCounter = if s.motorState = .off then 0 else s.tickCounter := by
  rw [tick_tickCounter, tickCommutate_reprogram hm, commStep_tickCounter, tickLogic_tickCounter]

/-- A `REPROGRAM` TICK announces the period phase 1 left, before anything else (R137). -/
theorem tick_directives_reprogram (hm : c.tickModel = .reprogram) : (tick c s).directives =
    s.directives ++ .setTickPeriod (tick c s).period :: updateDirectives c (tickCommutate c (tickLogic c s)) := by
  rw [tick_directives, announceDirectives_eq_ite, if_pos hm, tickCommutate_period, tick_period, List.singleton_append]

end

/-- UPDATE_OUTPUTS announces no period: a bracket holds no SetTickPeriod. -/
theorem ne_setTickPeriod_of_mem_updateDirectives {c : Cfg w} {s : Regs w} {d : Directive w}
    (h : d ∈ updateDirectives c s) (v : BitVec w) : d ≠ .setTickPeriod v := by
  rintro rfl
  unfold updateDirectives at h
  split at h <;> simp [bracket, configOf] at h

/-! ### The sector over a step of the machine -/

/-- What a command can do to the sector (R138): keep it, or take it one further under the non-zero duty it leaves. -/
def SectorKeptOrNext (s t : Regs w) : Prop :=
  t.sector = s.sector ∨ (t.duty ≠ 0 ∧ t.sector.toNat = (s.sector.toNat + 1) % 6)

theorem sectorKeptOrNext_of_ite {s t : Regs w}
    (h : t.sector.toNat = if t.duty = 0 then s.sector.toNat else (s.sector.toNat + 1) % 6) : SectorKeptOrNext s t := by
  by_cases hd : t.duty = 0
  · exact .inl (BitVec.eq_of_toNat_eq (h.trans (if_pos hd)))
  · exact .inr ⟨hd, h.trans (if_neg hd)⟩

theorem sectorKeptOrNext_tick (c : Cfg w) (s : Regs w) : SectorKeptOrNext s (tick c s) := by
  cases hm : c.tickModel with
  | reprogram => exact sectorKeptOrNext_of_ite (tick_sector_reprogram hm)
  | counted =>
    by_cases h : s.motorState = .off
    · exact .inl (tick_counter_sector_of_off h).2
    by_cases hp : (tick c s).period ≤ s.tickCounter + 1
    · exact sectorKeptOrNext_of_ite (tick_counted_due hm h hp).2
    · exact .inl (tick_counted_not_due hm h hp).2

/-- Of the commands only TICK can change the sector. -/
theorem sectorKeptOrNext_coreStep (c : Cfg w) (cmd : BitVec (w + 3)) (s : Regs w) :
    SectorKeptOrNext s (coreStep c cmd s) := by
  obtain h | h | h | h | h | h := coreStep_cases c cmd s <;> rw [h]
  case inr.inl => exact sectorKeptOrNext_tick c s
  all_goals exact .inl (by simp [stop, setManualDuty])

/-- A decoded command runs the core's own step on its word (R101, R103). -/
theorem exec_decodeCmd (cmd : CmdWord) (s : State) :
    exec (decodeCmd cmd) s = .next (s.update fun c => coreStep c cmd) := by
  have hOpcode : (cmd.extractLsb' 0 3).toNat < 8 := BitVec.isLt _
  unfold decodeCmd coreStep cmdOpcode
  generalize (cmd.extractLsb' 0 3).toNat = k at hOpcode ⊢
  interval_cases k <;> rfl

/-- What a step does to the registers: RESET where the port `rst` asks for it, else nothing or a step of the core. -/
theorem step_toRegs_cases {s t : State} (h : step s = .next t) :
    (∃ rest, s.inputs = .rst :: rest ∧ t.toRegs = resetRegisters s.toRegs) ∨ t.toRegs = s.toRegs ∨
      ∃ cmd, t.toRegs = coreStep s.cfg cmd s.toRegs := by
  unfold step at h
  split at h
  · cases h
    exact .inr (.inl rfl)
  · rename_i item rest hi
    cases item with
    | rst =>
      cases h
      exact .inl ⟨rest, hi, rfl⟩
    | cmd cmd =>
      rw [accept, exec_decodeCmd] at h
      cases h
      exact .inr (.inr ⟨cmd, rfl⟩)
    | requests r =>
      cases h
      exact .inr (.inl rfl)
    | eval d =>
      obtain ⟨v, rfl⟩ := evalData_next h
      exact .inr (.inl rfl)

/-! ### The obligations -/

/-- Settles O26: OFF, due, and not due are the three cases of COMM_DUE. -/
theorem commutationCounted : Obligations.CommutationCounted := fun s hm =>
  ⟨_, exec_tick s, tick_counter_sector_of_off, tick_counted_due hm, tick_counted_not_due hm⟩

/-- Settles O27: the one SetTickPeriod stands before what UPDATE_OUTPUTS emits. -/
theorem commutationReprogram : Obligations.CommutationReprogram := fun s hm =>
  ⟨_, exec_tick s, tick_sector_reprogram hm, tick_tickCounter_reprogram hm, _, tick_directives_reprogram hm,
    fun _ hMem => ne_setTickPeriod_of_mem_updateDirectives hMem⟩

/-- Settles O55: a step resets the registers, keeps them, or is a step of the core. -/
theorem sectorAdvancesByOne : Obligations.SectorAdvancesByOne := by
  intro s t h
  obtain ⟨rest, hi, hr⟩ | hr | ⟨cmd, hr⟩ := step_toRegs_cases h
  · exact .inr (.inr ⟨congrArg Regs.sector hr, rest, hi⟩)
  · exact .inl (congrArg Regs.sector hr)
  · rw [hr]
    exact (sectorKeptOrNext_coreStep s.cfg cmd s.toRegs).imp_right .inl

end Sys2Proof.Machine
end

