-- ==== Sys2Proof/Proofs/StateMachine.lean ====
section
/-! The four properties of the state machine (40_state_machine.md R144), for every `W` and configuration: over a run of TICKs
`MotorState` stays RAMPUP exactly as long as the period is above the threshold, and there the period never rises. -/

namespace Sys2Proof.Machine

variable {w : Nat}

/-! ### One TICK of the ramp -/

section
variable {c : Cfg w} {s : Regs w}

/-- Only the ramping arm ends in RAMPUP, and it is taken above the threshold only (R131, R133). -/
theorem tick_motorState_rampup_iff :
    (tick c s).motorState = .rampup ↔ s.motorState = .rampup ∧ c.handoffTm < s.period := by
  rw [tick_motorState, tickLogic_motorState]
  by_cases hp : c.handoffTm < s.period
  · simp [hp]
  · by_cases h : s.motorState = .rampup <;> simp [h, hp]

/-- The ramping arm takes 1 off the period in `FIXED` mode (R171). -/
theorem tick_period_fixed (hm : c.rampMode = .fixed) (h : s.motorState = .rampup) (hp : c.handoffTm < s.period) :
    (tick c s).period.toNat = s.period.toNat - 1 := by
  rw [tick_period, tickLogic_ramp h hp, tickRamp, rampStep_fixed hm]
  exact toNat_sub_one_of_lt hp

/-- In either ramp mode the ramping arm keeps the period or takes 1 off it (R171, R172). -/
theorem tick_period_ramp_cases (h : s.motorState = .rampup) (hp : c.handoffTm < s.period) :
    (tick c s).period.toNat = s.period.toNat ∨ (tick c s).period.toNat = s.period.toNat - 1 := by
  cases hm : c.rampMode with
  | fixed => exact .inr (tick_period_fixed hm h hp)
  | geometric =>
    rw [tick_period, tickLogic_ramp h hp, tickRamp]
    by_cases ht : s.rampTimer = 0
    · rw [rampStep_geometric_expired (s := s.setDuty c.rampDc) hm ht]
      exact .inr (toNat_sub_one_of_lt hp)
    · rw [rampStep_geometric_running (s := s.setDuty c.rampDc) hm ht]
      exact .inl rfl

/-- The period a ramping TICK leaves is not above the one it began with, nor below the threshold (R173). -/
theorem tick_period_ramp_bounds (h : s.motorState = .rampup) (hp : c.handoffTm < s.period) :
    (tick c s).period ≤ s.period ∧ c.handoffTm ≤ (tick c s).period := by
  have hCases := tick_period_ramp_cases h hp
  rw [BitVec.lt_def] at hp
  rw [BitVec.le_def, BitVec.le_def]
  omega

/-! ### Runs of TICKs -/

theorem handoffTm_le_runTicks_period (hp : c.handoffTm ≤ s.period) (n : Nat) (h : (runTicks c n s).motorState = .rampup) :
    c.handoffTm ≤ (runTicks c n s).period := by
  cases n with
  | zero => exact hp
  | succ n =>
    obtain ⟨hRamp, hAbove⟩ := tick_motorState_rampup_iff.mp h
    exact (tick_period_ramp_bounds hRamp hAbove).2

/-- The period at the end of a run that still ramps is not above that after any TICK before. -/
theorem runTicks_period_le {m n : Nat} (hmn : m ≤ n) (h : (runTicks c n s).motorState = .rampup) :
    (runTicks c n s).period ≤ (runTicks c m s).period := by
  induction n, hmn using Nat.le_induction with
  | base => exact BitVec.le_refl _
  | succ n _ ih =>
    obtain ⟨hRamp, hAbove⟩ := tick_motorState_rampup_iff.mp h
    exact BitVec.le_trans (tick_period_ramp_bounds hRamp hAbove).1 (ih hRamp)

/-- A `FIXED` ramp runs for as many TICKs as the period is above the threshold, 1 off it at each (R174). -/
theorem runTicks_fixed (hm : c.rampMode = .fixed) (h : s.motorState = .rampup) (k : Nat)
    (hk : c.handoffTm.toNat + k ≤ s.period.toNat) :
    (runTicks c k s).motorState = .rampup ∧ (runTicks c k s).period.toNat = s.period.toNat - k := by
  induction k with
  | zero => exact ⟨h, rfl⟩
  | succ k ih =>
    obtain ⟨hRamp, hPeriod⟩ := ih (by omega)
    have hAbove : c.handoffTm < (runTicks c k s).period := BitVec.lt_def.mpr (by omega)
    refine ⟨tick_motorState_rampup_iff.mpr ⟨hRamp, hAbove⟩, ?_⟩
    rw [runTicks_succ, tick_period_fixed hm hRamp hAbove, hPeriod]
    omega

/-- The TICK after a `FIXED` ramp goes ON (R134, R174). -/
theorem runTicks_fixed_handoff (hm : c.rampMode = .fixed) (h : s.motorState = .rampup) {k : Nat}
    (hk : c.handoffTm.toNat + k = s.period.toNat) : (runTicks c (k + 1) s).motorState = .on := by
  obtain ⟨hRamp, hPeriod⟩ := runTicks_fixed hm h k hk.le
  exact (tick_handoff hRamp (BitVec.le_def.mpr (by omega))).1

end

/-! ### The four properties -/

section
variable (c : Cfg w)

/-- R144 item 1 is START in a valid configuration. -/
theorem startProperty_holds : startProperty c := by
  intro s h hc
  rw [speedInc, h, start_valid hc]
  exact ⟨rfl, rfl⟩

/-- R144 item 2: the bounds over a run, and the hand-off arm at the threshold. -/
theorem rampProperty_holds : rampProperty c := by
  refine ⟨fun s m n _ hp hmn hEnd => ⟨runTicks_period_le hmn hEnd, handoffTm_le_runTicks_period hp n hEnd⟩,
    fun s h hp => ?_⟩
  obtain ⟨hOn, hDuty, -⟩ := tick_handoff h (BitVec.le_of_eq hp)
  exact ⟨hOn, fun hManual => by rw [hDuty, runDuty, hManual]; rfl⟩

/-- R144 item 3. -/
theorem stopProperty_holds : stopProperty c := fun _ => ⟨rfl, rfl, tick_period_of_off rfl⟩

/-- R144 item 4: the `FIXED` ramp from 512 to 80. -/
theorem scenarioProperty_holds : scenarioProperty c := by
  intro s h hc hm hLo hHandoff
  obtain ⟨hRamp, hPeriod⟩ := startProperty_holds c s h hc
  have hLength : c.handoffTm.toNat + 432 = (speedInc c s).period.toNat := by rw [hPeriod, hLo, hHandoff]
  exact ⟨fun k _ hk => (runTicks_fixed hm hRamp k (by omega)).1, runTicks_fixed_handoff hm hRamp hLength⟩

end

/-- Settles O58, by the four properties one after the other. -/
theorem stateMachineProperties : Obligations.StateMachineProperties :=
  ⟨fun s => ⟨exec_tick s, exec_speedInc s, exec_stop s⟩, fun _ c =>
    ⟨startProperty_holds c, rampProperty_holds c, stopProperty_holds c, scenarioProperty_holds c⟩⟩

end Sys2Proof.Machine
end

