-- ==== Sys2Proof/Proofs/RampGenerator.lean ====
section
/-! The ramping arm of TICK (40_state_machine.md R133) in the two modes of the ramp generator (41_ramp_generator.md R171,
R172), for every `W`. -/

namespace Sys2Proof.Machine

variable {w : Nat}

section
variable {c : Cfg w} {s : Regs w}

/-- The ramping arm writes the ramp duty, then takes the ramp step (R133). -/
theorem tickLogic_rampStep (h : s.motorState = .rampup) (hp : c.handoffTm < s.period) :
    tickLogic c s = rampStep c (s.setDuty c.rampDc) := tickLogic_ramp h hp

/-- Neither ramp mode has a say in the state or in the duty (R133). -/
theorem tick_ramp_motorState_duty (h : s.motorState = .rampup) (hp : c.handoffTm < s.period) :
    (tick c s).motorState = .rampup ∧ (tick c s).duty = c.rampDc := by
  simp [tickLogic_rampStep h hp, h]

/-- The `FIXED` step touches no ramp register; `tick_period_fixed` says what it does to the period (R171). -/
theorem tick_rampTimer_rampInterval_fixed (hm : c.rampMode = .fixed) (h : s.motorState = .rampup)
    (hp : c.handoffTm < s.period) :
    (tick c s).rampTimer = s.rampTimer ∧ (tick c s).rampInterval = s.rampInterval := by
  simp [tickLogic_rampStep h hp, rampStep_fixed hm]

/-- The `GEOMETRIC` step that finds the timer at 0 (R172). -/
theorem tick_geometric_expired (hm : c.rampMode = .geometric) (h : s.motorState = .rampup) (hp : c.handoffTm < s.period)
    (ht : s.rampTimer = 0) :
    (tick c s).period.toNat = s.period.toNat - 1 ∧ (tick c s).rampTimer = halveInterval c s.rampInterval ∧
      (tick c s).rampInterval = halveInterval c s.rampInterval := by
  have hStep := rampStep_geometric_expired (s := s.setDuty c.rampDc) hm ht
  rw [tick_period, tick_rampTimer, tick_rampInterval, tickLogic_rampStep h hp, hStep]
  exact ⟨toNat_sub_one_of_lt hp, rfl, rfl⟩

/-- The `GEOMETRIC` step that finds the timer still running (R172). -/
theorem tick_geometric_running (hm : c.rampMode = .geometric) (h : s.motorState = .rampup) (hp : c.handoffTm < s.period)
    (ht : s.rampTimer ≠ 0) :
    (tick c s).period = s.period ∧ (tick c s).rampInterval = s.rampInterval ∧
      (tick c s).rampTimer.toNat = s.rampTimer.toNat - 1 := by
  have hStep := rampStep_geometric_running (s := s.setDuty c.rampDc) hm ht
  rw [tick_period, tick_rampTimer, tick_rampInterval, tickLogic_rampStep h hp, hStep]
  exact ⟨rfl, rfl, toNat_sub_one_of_ne_zero ht⟩

end

/-- Settles O22: phase 1 is the `FIXED` ramp step at the ramp duty, and the later phases write none of these registers. -/
theorem tickRampFixed : Obligations.TickRampFixed := by
  intro s h hp hm
  obtain ⟨hState, hDuty⟩ := tick_ramp_motorState_duty h hp
  exact ⟨_, exec_tick s, hState, hDuty, tick_period_fixed hm h hp, tick_rampTimer_rampInterval_fixed hm h hp⟩

/-- Settles O23: phase 1 is the `GEOMETRIC` ramp step at the ramp duty, by the two cases of the timer. -/
theorem tickRampGeometric : Obligations.TickRampGeometric := by
  intro s h hp hm
  obtain ⟨hState, hDuty⟩ := tick_ramp_motorState_duty h hp
  refine ⟨_, exec_tick s, hState, hDuty, fun ht => ?_, tick_geometric_running hm h hp⟩
  obtain ⟨hPeriod, hTimer, hInterval⟩ := tick_geometric_expired hm h hp ht
  exact ⟨hPeriod, hTimer.trans hInterval.symm, (congrArg BitVec.toNat hInterval).trans (toNat_halveInterval _ _)⟩

end Sys2Proof.Machine
end

