-- ==== Sys2Proof/Proofs/SectorTable.lean ====
section
/-! The zero-duty override (42_sector_table.md R191) at the outputs a TICK leaves. -/

namespace Sys2Proof.Machine

variable {w : Nat}

@[simp] theorem Outs.allOff_get (ch : Channel) : (Outs.allOff : Outs w).get ch = ⟨false, false, false, 0⟩ := by
  cases ch <;> rfl

/-- The duty the override reads in phase 3 is the one the TICK leaves: commutation and outputs write no duty (R131, R191). -/
theorem tick_out_of_duty_zero {c : Cfg w} {s : Regs w} (hd : (tick c s).duty = 0) : (tick c s).out = .allOff := by
  have hCommutated : (tickCommutate c (tickLogic c s)).duty = 0 := by rwa [tickCommutate_duty, ← tick_duty]
  rw [tick_out, desiredOuts_of_duty_zero c hCommutated]

/-- Settles O44: a TICK that leaves a zero duty leaves the all-off outputs, read channel by channel. -/
theorem zeroDutyDrivesNothing : Obligations.ZeroDutyDrivesNothing := by
  refine fun s => ⟨_, exec_tick s, fun hd ch => ?_⟩
  rw [State.update_toRegs] at hd ⊢
  rw [tick_out_of_duty_zero hd, Outs.allOff_get]

end Sys2Proof.Machine
end

