-- ==== Sys2Proof/Proofs/PhaseEncoder.lean ====
section
/-! ENCODE (43_phase_encoder.md R210 to R215) for every `W`, and the UPDATE_OUTPUTS of a TICK (R220, R221) in terms of the
state the TICK leaves. -/

namespace Sys2Proof.Machine

variable {w : Nat}

/-! ### ENCODE -/

/-- Settles O32, row by row of the table of R211 to R214. -/
theorem encodeTable : Obligations.EncodeTable := fun _ _ _ => ⟨rfl, rfl, rfl, rfl, rfl, rfl, rfl⟩

/-- The complementary widths agree exactly at half the period (R215). -/
theorem eq_sub_iff_toNat_eq_two_mul {d p : BitVec w} (h : d < p) : d = p - d ↔ p.toNat = 2 * d.toNat := by
  have hLt := BitVec.lt_def.mp h
  rw [BitVec.toNat_eq, toNat_sub_of_lt h]
  omega

/-- Settles O33: the width of `PwmMinus` is `p - d`, which does not underflow below the period. -/
theorem complementaryWidths : Obligations.ComplementaryWidths := by
  intro w p d h
  have hSum : d.toNat + (p - d).toNat = p.toNat := by
    rw [toNat_sub_of_lt h]
    exact Nat.add_sub_of_le (Nat.le_of_lt (BitVec.lt_def.mp h))
  exact ⟨p - d, rfl, toNat_sub_of_lt h, hSum, eq_sub_iff_toNat_eq_two_mul h⟩

/-! ### UPDATE_OUTPUTS in a TICK -/

/-- The desired outputs depend on the duty and the sector alone (R220). -/
theorem desiredOuts_congr (c : Cfg w) {s t : Regs w} (hDuty : s.duty = t.duty) (hSector : s.sector = t.sector) :
    desiredOuts c s = desiredOuts c t := by
  simp only [desiredOuts, sectorLookup, hDuty, hSector]

/-- Phase 3 reads the duty and the sector the TICK leaves (40_state_machine.md R131, R220). -/
theorem tick_out_eq_desiredOuts_tick (c : Cfg w) (s : Regs w) : (tick c s).out = desiredOuts c (tick c s) := by
  rw [tick_out]
  exact desiredOuts_congr c (by simp) (tick_sector c s).symm

/-- What UPDATE_OUTPUTS emits in a TICK, by the outputs before and after it (R221). -/
theorem updateDirectives_tickCommutate (c : Cfg w) (s : Regs w) :
    updateDirectives c (tickCommutate c (tickLogic c s)) =
      if (tick c s).out = s.out then [] else bracket (tick c s).out := by
  rw [updateDirectives, ← tick_out, tickCommutate_out, tickLogic_out]

/-- The stream of a TICK: the announcement, then the bracket if the outputs change (R131, R220, R221). -/
theorem tick_directives_eq_ite (c : Cfg w) (s : Regs w) : (tick c s).directives =
    s.directives ++ (if c.tickModel = .reprogram then [.setTickPeriod (tick c s).period] else []) ++
      (if (tick c s).out = s.out then [] else bracket (tick c s).out) := by
  rw [tick_directives, announceDirectives_eq_ite, updateDirectives_tickCommutate, tickCommutate_period, tick_period,
    List.append_assoc]

/-- Settles O28: the outputs are the desired ones of the state the TICK leaves, the stream grows as
`tick_directives_eq_ite` says. -/
theorem tickOutputs : Obligations.TickOutputs := fun s =>
  ⟨_, exec_tick s, tick_out_eq_desiredOuts_tick s.cfg s.toRegs, tick_directives_eq_ite s.cfg s.toRegs⟩

end Sys2Proof.Machine
end

