-- ==== Sys2Proof/Proofs/SpeedAdjust.lean ====
section
/-! The speed-adjustment commands (44_speed_adjust.md R240 to R242): each rule of the core arm by arm, for every `W`, then the
machine it leaves. -/

namespace Sys2Proof.Machine

variable {w : Nat}

/-! ### The commands as rules of the core -/

theorem exec_speedDec (s : State) : exec .speedDec s = .next (s.update speedDec) := rfl

theorem exec_setManualDuty (v : Word) (s : State) : exec (.setManualDuty v) s = .next (s.update (setManualDuty v)) := rfl

/-! ### The arms of the two speed commands -/

section
variable {c : Cfg w} {s : Regs w}

/-- In OFF either speed command is START (R140). -/
theorem speedInc_off (h : s.motorState = .off) : speedInc c s = start c s := by rw [speedInc, h]

theorem speedDec_off (h : s.motorState = .off) : speedDec c s = start c s := by rw [speedDec, h]

/-- In RAMPUP the ramp owns the period (R240). -/
theorem speedInc_rampup (h : s.motorState = .rampup) : speedInc c s = s := by rw [speedInc, h]

theorem speedDec_rampup (h : s.motorState = .rampup) : speedDec c s = s := by rw [speedDec, h]

theorem speedInc_on_above_bound (h : s.motorState = .on) (hp : c.maxSpdTm < s.period) :
    speedInc c s = s.setPeriod (s.period - 1) := by
  rw [speedInc, h]
  exact if_pos hp

theorem speedInc_on_at_bound (h : s.motorState = .on) (hp : s.period ≤ c.maxSpdTm) : speedInc c s = s := by
  rw [speedInc, h]
  exact if_neg (BitVec.not_lt.mpr hp)

theorem speedDec_on_below_bound (h : s.motorState = .on) (hp : s.period < c.loSpdTm) :
    speedDec c s = s.setPeriod (s.period + 1) := by
  rw [speedDec, h]
  exact if_pos hp

theorem speedDec_on_at_bound (h : s.motorState = .on) (hp : c.loSpdTm ≤ s.period) : speedDec c s = s := by
  rw [speedDec, h]
  exact if_neg (BitVec.not_lt.mpr hp)

end

/-! ### The machine a rule leaves -/

section
variable {s : State} {f : Cfg 16 → Regs 16 → Regs 16}

/-- A rule that gives the registers `r` changes nothing of the machine around them. -/
theorem next_update_eq {r : Regs 16} (h : f s.cfg s.toRegs = r) :
    (.next (s.update f) : Host.Outcome State Fault Refusal) = .next (s.setRegs r) := by rw [State.update, h]

theorem next_update_eq_self (h : f s.cfg s.toRegs = s.toRegs) :
    (.next (s.update f) : Host.Outcome State Fault Refusal) = .next s := next_update_eq h

/-- A rule that is START where it is called starts the ramp in a valid configuration (R140). -/
theorem next_update_start_valid (h : f s.cfg s.toRegs = start s.cfg s.toRegs) (hc : configValid s.cfg = true) :
    (.next (s.update f) : Host.Outcome State Fault Refusal) =
      .next { s with motorState := .rampup, period := s.cfg.loSpdTm, rampTimer := s.cfg.rampStepTmStart,
                     rampInterval := s.cfg.rampStepTmStart, tickCounter := 0 } :=
  next_update_eq (h.trans (start_valid hc))

/-- In an invalid configuration START is refused, and so is such a rule (R262). -/
theorem next_update_start_invalid (h : f s.cfg s.toRegs = start s.cfg s.toRegs) (hc : configValid s.cfg = false) :
    (.next (s.update f) : Host.Outcome State Fault Refusal) = .next s :=
  next_update_eq_self (h.trans (start_invalid hc))

end

/-! ### The obligations -/

/-- Settles O16: the arms of R240 one after the other; above the bound the period cannot underflow. -/
theorem speedIncEffect : Obligations.SpeedIncEffect := by
  intro s
  rw [exec_speedInc]
  exact ⟨fun h => next_update_start_valid (speedInc_off h), fun h => next_update_start_invalid (speedInc_off h),
    fun h => next_update_eq_self (speedInc_rampup h), fun h hp => next_update_eq_self (speedInc_on_at_bound h hp),
    fun h hp => ⟨_, next_update_eq (speedInc_on_above_bound h hp), toNat_sub_one_of_lt hp⟩⟩

/-- Settles O17: the arms of R241 one after the other; below the bound the period cannot overflow. -/
theorem speedDecEffect : Obligations.SpeedDecEffect := by
  intro s
  rw [exec_speedDec]
  exact ⟨fun h => next_update_start_valid (speedDec_off h), fun h => next_update_start_invalid (speedDec_off h),
    fun h => next_update_eq_self (speedDec_rampup h), fun h hp => next_update_eq_self (speedDec_on_at_bound h hp),
    fun h hp => ⟨_, next_update_eq (speedDec_on_below_bound h hp), toNat_add_one_of_lt hp⟩⟩

/-- Settles O18: the one register written takes the clamped operand, a minimum where the PWM period is not 0. -/
theorem setManualDutyEffect : Obligations.SetManualDutyEffect := fun s v hp =>
  ⟨clampDuty s.cfg v, exec_setManualDuty v s, toNat_clampDuty hp v⟩

end Sys2Proof.Machine
end

