-- ==== Sys2Proof/Proofs/Exceptions.lean ====
section
/-! The absence of faults (60_exceptions.md R260) and the arbitration of simultaneous requests (R264) with the saturation of
a wide operand (30_encoding.md R102). -/

namespace Sys2Proof.Machine

variable {w : Nat}

/-! ### Completion -/

/-- Every command is the meaning of some command word (30_encoding.md R103). -/
theorem exists_decodeCmd_eq {i : Instr} (h : i.format = .cmd) : ∃ cmd, decodeCmd cmd = i := by
  cases i with
  | nop => exact ⟨cmdWord 0 0, rfl⟩
  | tick => exact ⟨cmdWord 0 1, rfl⟩
  | stop => exact ⟨cmdWord 0 2, rfl⟩
  | speedInc => exact ⟨cmdWord 0 3, rfl⟩
  | speedDec => exact ⟨cmdWord 0 4, rfl⟩
  | setManualDuty v => exact ⟨cmdWord v 5, decodeCmd_setManualDuty v⟩
  | reserved6 => exact ⟨cmdWord 0 6, rfl⟩
  | reserved7 => exact ⟨cmdWord 0 7, rfl⟩
  | _ => cases h

/-- A command runs the core's own step on its word, which is total. -/
theorem exec_completes_of_cmd {i : Instr} (h : i.format = .cmd) (s : State) : ∃ t, exec i s = .next t := by
  obtain ⟨cmd, rfl⟩ := exists_decodeCmd_eq h
  exact ⟨_, exec_decodeCmd cmd s⟩

/-- Every input but the evaluation of a data word, the model's own (log entry 7), is accepted. -/
theorem accept_completes {item : PortInput} (h : ∀ d, item ≠ .eval d) (s : State) : ∃ t, accept item s = .next t := by
  cases item with
  | rst => exact ⟨_, rfl⟩
  | cmd cmd => exact ⟨_, exec_decodeCmd cmd s⟩
  | requests r => exact ⟨_, rfl⟩
  | eval d => exact absurd rfl (h d)

theorem step_of_inputs_nil {s : State} (h : s.inputs = []) : step s = .next s := by rw [step, h]; rfl

theorem step_of_inputs_cons {s : State} {item : PortInput} {rest : List PortInput} (h : s.inputs = item :: rest) :
    step s = accept item (s.setInputs rest) := by rw [step, h]

/-- A step completes unless it evaluates a data word. -/
theorem step_completes {s : State} (h : ∀ d rest, s.inputs ≠ .eval d :: rest) : ∃ t, step s = .next t := by
  cases hi : s.inputs with
  | nil => exact ⟨s, step_of_inputs_nil hi⟩
  | cons item rest =>
    rw [step_of_inputs_cons hi]
    exact accept_completes (fun d hd => h d rest (hd ▸ hi)) _

/-! ### Arbitration -/

/-- Saturation, as a minimum (30_encoding.md R102). -/
theorem toNat_saturateOperand (n : Nat) : (saturateOperand n : BitVec w).toNat = min n (2 ^ w - 1) := by
  unfold saturateOperand
  split
  · rw [BitVec.toNat_ofNat, Nat.mod_eq_of_lt ‹_›]
    omega
  · rw [BitVec.toNat_allOnes]
    omega

/-- A word is the saturated operand exactly where it has the saturated value. -/
theorem saturateOperand_eq_iff (n : Nat) (v : Word) : saturateOperand n = v ↔ v.toNat = min n 65535 := by
  rw [BitVec.toNat_eq, toNat_saturateOperand]
  exact eq_comm

theorem map_ite_singleton {α β : Type} (f : α → β) (b : Bool) (a : α) :
    (if b then [a] else []).map f = if b then [f a] else [] := by cases b <;> rfl

theorem ite_singleton_sublist {α : Type} (b : Bool) (a : α) : List.Sublist (if b then [a] else []) [a] := by
  cases b <;> simp

/-- The commands of simultaneous requests, kind by kind in the order of R264. -/
theorem map_decodeCmd_arbitrate (r : Requests) : (arbitrate r).map decodeCmd =
    (if r.stop then [.stop] else []) ++ (r.setManualDuty.map fun n => Instr.setManualDuty (saturateOperand n)).toList ++
      (if r.speedInc && !r.stop then [.speedInc] else []) ++ (if r.speedDec && !r.stop then [.speedDec] else []) ++
      (if r.tick then [.tick] else []) := by
  simp only [arbitrate, List.map_append, map_ite_singleton]
  cases r.setManualDuty with
  | none => rfl
  | some n => rw [List.map_singleton, decodeCmd_setManualDuty]; rfl

/-- The commands come in the order of R264, none of them twice. -/
theorem map_decodeCmd_arbitrate_sublist (r : Requests) : List.Sublist ((arbitrate r).map decodeCmd)
    [.stop, .setManualDuty (saturateOperand (r.setManualDuty.getD 0)), .speedInc, .speedDec, .tick] := by
  have hDuty : List.Sublist (r.setManualDuty.map fun n => Instr.setManualDuty (saturateOperand n)).toList
      [.setManualDuty (saturateOperand (r.setManualDuty.getD 0))] := by cases r.setManualDuty <;> simp
  rw [map_decodeCmd_arbitrate]
  exact ((((ite_singleton_sublist _ _).append hDuty).append (ite_singleton_sublist _ _)).append
    (ite_singleton_sublist _ _)).append (ite_singleton_sublist _ _)

/-! ### The obligations -/

/-- Settles O9: `Fault` has no constructor, and a step only stops where it evaluates a data word. -/
theorem commandsComplete : Obligations.CommandsComplete :=
  ⟨nofun, fun _ s h => exec_completes_of_cmd h s, fun _ => step_completes⟩

/-- Settles O10: the order is that of the list `map_decodeCmd_arbitrate` gives, and each kind is in it under its own
condition. -/
theorem arbitrationOrder : Obligations.ArbitrationOrder := by
  intro r
  refine ⟨⟨_, map_decodeCmd_arbitrate_sublist r⟩, ?_⟩
  simp [map_decodeCmd_arbitrate, saturateOperand_eq_iff]

end Sys2Proof.Machine
end

