-- ==== Sys2Proof/Proofs/RoundTrip.lean ====
section
/-! Decoding a canonical word gives back the instruction (30_encoding.md R90 to R94, R101, R115), and so does decoding its
bytes (20_memory.md R65). -/

namespace Sys2Proof

/-! ### A word given by its bits -/

theorem decodeWord_cmd (x : CmdWord) : decodeWord .cmd x.toNat = .ok (decodeCmd x) :=
  (if_pos x.isLt).trans (by simp only [BitVec.ofNat_toNat, BitVec.setWidth_eq])

theorem decodeWord_dir (x : DirWord) : decodeWord .dir x.toNat = decodeDir x :=
  (if_pos x.isLt).trans (by simp only [BitVec.ofNat_toNat, BitVec.setWidth_eq])

theorem decodeWord_pcs (x : BitVec 3) : decodeWord .pcs x.toNat = .ok (decodePcs x) :=
  (if_pos x.isLt).trans (by simp only [BitVec.ofNat_toNat, BitVec.setWidth_eq])

theorem decodeWord_sect (x : SectWord) : decodeWord .sect x.toNat = decodeSect x :=
  (if_pos x.isLt).trans (by simp only [BitVec.ofNat_toNat, BitVec.setWidth_eq])

/-- The operand of SET_MANUAL_DUTY is the only one a command word carries (R101, R103). -/
theorem decodeWord_cmdWord_setManualDuty (v : Word) : decodeWord .cmd (cmdWord v 5).toNat = .ok (.setManualDuty v) := by
  rw [decodeWord_cmd, decodeCmd_setManualDuty]

/-! ### Directive words (R115) -/

theorem decodeDir_disableAll : decodeDir (dirWord .disableAll) = .ok .disableAll := by decide

theorem decodeDir_config (ch : Channel) (pwmEn level : Bool) (width : Word) :
    decodeDir (dirWord (.config ch pwmEn level width)) = .ok (.config ch pwmEn level width) := by
  simp only [decodeDir, dirWord, dirFields_kind, dirFields_sel, dirFields_pwmEn, dirFields_level, dirFields_value]
  cases ch <;> rfl

/-- The mask fits the three low bits of the value field, which the decoder asks for. -/
theorem decodeDir_enableSet (mask : BitVec 3) : decodeDir (dirWord (.enableSet mask)) = .ok (.enableSet mask) := by
  have hMask : (mask.setWidth 16).toNat < 8 ∧ (mask.setWidth 16).setWidth 3 = mask := by
    revert mask
    decide
  simp only [decodeDir, dirWord, dirFields_kind, dirFields_sel, dirFields_pwmEn, dirFields_level, dirFields_value, hMask]
  rfl

theorem decodeDir_setTickPeriod (value : Word) : decodeDir (dirWord (.setTickPeriod value)) = .ok (.setTickPeriod value) := by
  simp only [decodeDir, dirWord, dirFields_kind, dirFields_sel, dirFields_pwmEn, dirFields_level, dirFields_value]
  rfl

/-! ### The round trip -/

/-- The words without an operand are closed, so they decode by evaluation; the five with one decode field by field. -/
theorem decodeWord_encode (i : Instr) : decodeWord i.format (encode i) = .ok i := by
  cases i with
  | setManualDuty v => exact decodeWord_cmdWord_setManualDuty v
  | disableAll => exact (decodeWord_dir _).trans decodeDir_disableAll
  | config ch pwmEn level width => exact (decodeWord_dir _).trans (decodeDir_config ch pwmEn level width)
  | enableSet mask => exact (decodeWord_dir _).trans (decodeDir_enableSet mask)
  | setTickPeriod value => exact (decodeWord_dir _).trans (decodeDir_setTickPeriod value)
  | _ => rfl

/-- A canonical word fits its bytes, so they carry it whole and nothing is left over. -/
theorem decodeBytes_encodeBytes (i : Instr) : decodeBytes i.format (encodeBytes i) = .ok (i, []) := by
  rw [encodeBytes, decodeBytes_bytesOfNat (Laws.EncodeFits.all i), decodeWord_encode]
  rfl

/-- Settles O1: the round trip of the word, and of its bytes. -/
theorem decodeEncodeAgree : Obligations.DecodeEncodeAgree := fun i => ⟨decodeWord_encode i, decodeBytes_encodeBytes i⟩

/-- Settles O3: each example word is a closed term, on which the decoder is run. -/
theorem exampleWordsDecode : Obligations.ExampleWordsDecode :=
  ⟨rfl, rfl, rfl, rfl, rfl, rfl, rfl, rfl, rfl, rfl, rfl, rfl, rfl, rfl, rfl⟩

end Sys2Proof
end

