-- ==== Sys2Proof/Proofs/DirectiveStream.lean ====
section
/-! The safety invariant of the directive stream (43_phase_encoder.md R222): what a TICK appends, how it moves the outputs
directive by directive, and what a step can do to the stream and the configuration (10_state.md R31, 20_memory.md R71). -/

namespace Sys2Proof.Machine

variable {w : Nat}

/-! ### What a TICK appends -/

/-- The directives of one TICK: the announcement of the period, then the bracket if the outputs change (R131, R220, R221). -/
def tickEmission (c : Cfg w) (s : Regs w) : List (Directive w) :=
  (if c.tickModel = .reprogram then [.setTickPeriod (tick c s).period] else []) ++
    (if (tick c s).out = s.out then [] else bracket (tick c s).out)

theorem tick_directives_eq_append (c : Cfg w) (s : Regs w) : (tick c s).directives = s.directives ++ tickEmission c s := by
  rw [tick_directives_eq_ite, tickEmission, List.append_assoc]

/-- A property of the outputs before, a list of directives and the outputs after holds of every TICK if it holds of the empty
list, of a bracket, and of a list with a SetTickPeriod in front, which writes no output (R114). -/
theorem tickEmission_induction {P : Outs w → List (Directive w) → Outs w → Prop} (hNil : ∀ o, P o [] o)
    (hBracket : ∀ o des, P o (bracket des) des) (hAnnounce : ∀ o v ds des, P o ds des → P o (.setTickPeriod v :: ds) des)
    (c : Cfg w) (s : Regs w) : P s.out (tickEmission c s) (tick c s).out := by
  have hUpdate : P s.out (if (tick c s).out = s.out then [] else bracket (tick c s).out) (tick c s).out := by
    split
    · rename_i hSame
      rw [hSame]
      exact hNil _
    · exact hBracket _ _
  unfold tickEmission
  split
  · exact hAnnounce _ _ _ _ hUpdate
  · exact hUpdate

/-! ### The outputs along the emission -/

/-- The outputs at every point of a list of directives: as before it, undriven, or as after it (R222 d). -/
def NoOtherOutputs (o : Outs w) (ds : List (Directive w)) (o' : Outs w) : Prop :=
  ∀ n, o.replay (ds.take n) = o ∨ undriven (o.replay (ds.take n)) ∨ o.replay (ds.take n) = o'

/-- From DisableAll to the last Config the bracket drives nothing, and EnableSet completes it. -/
theorem noOtherOutputs_bracket (o des : Outs w) : NoOtherOutputs o (bracket des) des
  | 0 => .inl rfl
  | 1 | 2 | 3 | 4 => .inr (.inl ⟨rfl, rfl, rfl⟩)
  | n + 5 => by
    have hAll : (bracket des).take (n + 5) = bracket des := List.take_of_length_le (Nat.le_add_left 5 n)
    rw [hAll]
    exact .inr (.inr (Outs.replay_bracket o des))

theorem noOtherOutputs_setTickPeriod_cons {o des : Outs w} {ds : List (Directive w)} (v : BitVec w)
    (h : NoOtherOutputs o ds des) : NoOtherOutputs o (.setTickPeriod v :: ds) des
  | 0 => .inl rfl
  | n + 1 => h n

/-- Every Config directive of the list lands on undriven outputs (R222 c). -/
def ConfigsUndriven (o : Outs w) (ds : List (Directive w)) : Prop :=
  ∀ before ch p l v after, ds = before ++ .config ch p l v :: after → undriven (o.replay before)

theorem configsUndriven_nil (o : Outs w) : ConfigsUndriven o [] := by
  intro before ch p l v after h
  exact absurd h.symm (List.append_ne_nil_of_right_ne_nil _ (List.cons_ne_nil _ _))

/-- The first directive meets the outputs as they are, the others those it leaves. -/
theorem configsUndriven_cons {o : Outs w} {d : Directive w} {ds : List (Directive w)}
    (hHead : (∃ ch p l v, d = .config ch p l v) → undriven o) (hTail : ConfigsUndriven (o.apply d) ds) :
    ConfigsUndriven o (d :: ds) := by
  intro before ch p l v after h
  cases before with
  | nil => exact hHead ⟨ch, p, l, v, (List.cons.inj h).1⟩
  | cons d' before =>
    obtain ⟨rfl, hRest⟩ := List.cons.inj h
    exact hTail before ch p l v after hRest

theorem configsUndriven_bracket (o des : Outs w) : ConfigsUndriven o (bracket des) :=
  configsUndriven_cons nofun <|
    configsUndriven_cons (fun _ => ⟨rfl, rfl, rfl⟩) <|
      configsUndriven_cons (fun _ => ⟨rfl, rfl, rfl⟩) <|
        configsUndriven_cons (fun _ => ⟨rfl, rfl, rfl⟩) <|
          configsUndriven_cons nofun (configsUndriven_nil _)

/-- Settles O49: a TICK emits nothing or a bracket, with a SetTickPeriod before it that writes no output. -/
theorem noOtherCombinationDriven : Obligations.NoOtherCombinationDriven := by
  intro s
  refine ⟨_, tickEmission s.cfg s.toRegs, exec_tick s, tick_directives_eq_append _ _, ?_, ?_⟩
  · exact tickEmission_induction (P := fun o ds o' => o.replay ds = o') (fun _ => rfl) Outs.replay_bracket
      (fun _ _ _ _ h => h) s.cfg s.toRegs
  · exact tickEmission_induction (P := NoOtherOutputs) (fun _ _ => .inl (by rw [List.take_nil]; rfl)) noOtherOutputs_bracket
      (fun _ v _ _ h => noOtherOutputs_setTickPeriod_cons v h) s.cfg s.toRegs

/-- Settles O50: the Config directives of a TICK are those of a bracket, after its DisableAll. -/
theorem configLandsUndriven : Obligations.ConfigLandsUndriven := fun s =>
  ⟨_, tickEmission s.cfg s.toRegs, exec_tick s, tick_directives_eq_append _ _,
    tickEmission_induction (P := fun o ds _ => ConfigsUndriven o ds) configsUndriven_nil configsUndriven_bracket
      (fun _ _ _ _ h => configsUndriven_cons nofun h) s.cfg s.toRegs⟩

/-! ### Streams of whole brackets -/

/-- Whole brackets after whole brackets are whole brackets. -/
theorem bracketed_append {xs ys : List (Directive w)} (hx : bracketed xs = true) (hy : bracketed ys = true) :
    bracketed (xs ++ ys) = true := by
  induction xs using bracketed.induct with
  | case1 => exact hy
  | case2 v ds ih => exact ih hx
  | case3 _ _ _ _ _ _ _ _ _ _ ds ih => exact ih hx
  | case4 ds hEmpty hAnnounce hBracket =>
    rw [bracketed.eq_4 ds hEmpty hAnnounce hBracket] at hx
    contradiction

theorem bracketed_bracket (des : Outs w) : bracketed (bracket des) = true := rfl

theorem bracketed_tickEmission (c : Cfg w) (s : Regs w) : bracketed (tickEmission c s) = true :=
  tickEmission_induction (P := fun _ ds _ => bracketed ds = true) (fun _ => rfl) (fun _ => bracketed_bracket)
    (fun _ _ _ _ h => h) c s

/-! ### The stream and the configuration over a step -/

/-- Only a TICK emits: what a command appends to the stream is nothing, or the emission of a TICK. -/
theorem coreStep_directives (c : Cfg w) (cmd : BitVec (w + 3)) (s : Regs w) :
    ∃ ds, (coreStep c cmd s).directives = s.directives ++ ds ∧ bracketed ds = true := by
  obtain h | h | h | h | h | h := coreStep_cases c cmd s <;> rw [h]
  case inr.inl => exact ⟨_, tick_directives_eq_append c s, bracketed_tickEmission c s⟩
  all_goals exact ⟨[], by simp [stop, setManualDuty], rfl⟩

/-- A step appends whole brackets (R71, R222 a, b); RESET emits nothing (70_reset_and_hazards.md R290). -/
theorem step_directives {s t : State} (h : step s = .next t) :
    ∃ ds, t.directives = s.directives ++ ds ∧ bracketed ds = true := by
  obtain ⟨-, -, hr⟩ | hr | ⟨cmd, hr⟩ := step_toRegs_cases h <;> rw [hr]
  · exact ⟨[], by simp, rfl⟩
  · exact ⟨[], by simp, rfl⟩
  · exact coreStep_directives s.cfg cmd s.toRegs

/-- No step writes the configuration (R31, R75). -/
theorem step_cfg {s t : State} (h : step s = .next t) : t.cfg = s.cfg := by
  obtain ⟨u, ins, rfl, h⟩ := step_cases h
  obtain rfl | rfl | rfl | rfl | rfl | rfl | ⟨v, rfl⟩ | ⟨v, rfl⟩ := h <;> rfl

/-- Settles O48: a step appends whole brackets to the stream. -/
theorem streamStaysBracketed : Obligations.StreamStaysBracketed := by
  intro s t hs h
  obtain ⟨ds, hAppend, hds⟩ := step_directives h
  rw [hAppend]
  exact bracketed_append hs hds

/-- Settles O51, by the two facts about a step. -/
theorem configurationFixedStreamGrows : Obligations.ConfigurationFixedStreamGrows := fun _ _ h =>
  ⟨step_cfg h, (step_directives h).imp fun _ hds => hds.1⟩

end Sys2Proof.Machine
end

