-- ==== Sys2Proof/Proofs/Invariants.lean ====
section
/-! The invariants I1 to I8 (10_state.md R34) hold at reset and are kept by every step. What a command does to the registers
an invariant speaks of is proved for every `W`; then one lemma for each command says that it keeps all eight. -/

namespace Sys2Proof.Machine

variable {w : Nat}

theorem zero_lt_iff_toNat_pos {x : BitVec w} : 0 < x ↔ 0 < x.toNat := by simp [BitVec.lt_def]

/-! ### What a valid configuration gives -/

section
variable {c : Cfg w}

/-- V1: both constant duties are below the PWM period. -/
theorem configValid_duty (h : configValid c = true) : 0 < c.pwmPeriod ∧ c.rampDc < c.pwmPeriod ∧ c.runDc < c.pwmPeriod := by
  obtain ⟨hV1, -⟩ := (configValid_iff c).mp h
  have hBounds := (configV1_iff c).mp hV1
  rw [zero_lt_iff_toNat_pos]
  simp only [BitVec.lt_def]
  omega

/-- V2: the periods are ordered and none is 0. -/
theorem configValid_period (h : configValid c = true) :
    0 < c.maxSpdTm ∧ c.maxSpdTm ≤ c.handoffTm ∧ c.handoffTm < c.loSpdTm := by
  obtain ⟨-, hV2, -⟩ := (configValid_iff c).mp h
  have hBounds := (configV2_iff c).mp hV2
  rw [zero_lt_iff_toNat_pos]
  simp only [BitVec.lt_def, BitVec.le_def]
  omega

/-- V3: the floor of the ramp interval is not above its start. -/
theorem configValid_ramp (h : configValid c = true) : c.rampStepTmMin ≤ c.rampStepTmStart := by
  obtain ⟨-, -, hV3, -⟩ := (configValid_iff c).mp h
  exact BitVec.le_def.mpr ((configV3_iff c).mp hV3).1

theorem configValid_loSpdTm_pos (h : configValid c = true) : 0 < c.loSpdTm := by
  obtain ⟨-, -, hLo⟩ := configValid_period h
  exact zero_lt_iff_toNat_pos.mpr (Nat.zero_lt_of_lt (BitVec.lt_def.mp hLo))

end

/-! ### The duty and the outputs stay within the PWM period (I2, I8) -/

theorem clampDuty_lt {c : Cfg w} (h : 0 < c.pwmPeriod) (v : BitVec w) : clampDuty c v < c.pwmPeriod := by
  rw [zero_lt_iff_toNat_pos] at h
  have hClamp := toNat_clampDuty (c := c) (by rintro h0; simp [h0] at h) v
  rw [BitVec.lt_def]
  omega

/-- The width of `PwmPlus` is the duty and that of `PwmMinus` its complement; the others have width 0. -/
theorem encodePhase_width_le {p d : BitVec w} (h : d < p) (q : PhaseChannelState) : (encodePhase p d q).width ≤ p := by
  rw [BitVec.le_def]
  cases q with
  | pwmPlus => exact (BitVec.lt_def.mp h).le
  | pwmMinus => exact toNat_sub_of_lt h ▸ Nat.sub_le _ _
  | _ => simp [encodePhase]

/-- Every duty TICK can write is below the PWM period (R132 to R135). -/
theorem tick_duty_lt {c : Cfg w} {s : Regs w} (hc : configValid c = true) (hDuty : s.duty < c.pwmPeriod)
    (hManual : s.manualDuty < c.pwmPeriod) : (tick c s).duty < c.pwmPeriod := by
  obtain ⟨hPos, hRamp, hRun⟩ := configValid_duty hc
  cases h : s.motorState with
  | off =>
    rw [tick_duty, tickLogic_off h]
    exact hPos
  | rampup =>
    by_cases hp : c.handoffTm < s.period
    · rw [(tick_ramp_motorState_duty h hp).2]
      exact hRamp
    · rw [(tick_handoff h (BitVec.not_lt.mp hp)).2.1, runDuty]
      split <;> assumption
  | on =>
    rw [(tick_on h).2.1]
    split <;> assumption

/-- Every output record a TICK leaves is ENCODE at the duty it leaves (R220). -/
theorem tick_out_get (c : Cfg w) (s : Regs w) (ch : Channel) :
    ∃ q, (tick c s).out.get ch = encodePhase c.pwmPeriod (tick c s).duty q := by
  rw [tick_out_eq_desiredOuts_tick]
  cases ch <;> exact ⟨_, rfl⟩

/-! ### The period (I4, I5) -/

/-- I4 and I5: the bounds of the period in RAMPUP and in ON. -/
def PeriodBounded (c : Cfg w) (s : Regs w) : Prop :=
  (s.motorState = .rampup → c.handoffTm ≤ s.period ∧ s.period ≤ c.loSpdTm) ∧
    (s.motorState = .on → c.maxSpdTm ≤ s.period ∧ s.period ≤ c.loSpdTm)

section
variable {c : Cfg w} {s : Regs w}

theorem periodBounded_of_off (h : s.motorState = .off) : PeriodBounded c s := ⟨by simp [h], by simp [h]⟩

theorem periodBounded_of_on (h : s.motorState = .on) (hMax : c.maxSpdTm ≤ s.period) (hLo : s.period ≤ c.loSpdTm) :
    PeriodBounded c s := ⟨by simp [h], fun _ => ⟨hMax, hLo⟩⟩

/-- Outside OFF the wider of the two ranges holds. -/
theorem PeriodBounded.of_not_off (hc : configValid c = true) (h : PeriodBounded c s) (hs : s.motorState ≠ .off) :
    c.maxSpdTm ≤ s.period ∧ s.period ≤ c.loSpdTm := by
  obtain ⟨hRampup, hOn⟩ := h
  cases hState : s.motorState with
  | off => exact absurd hState hs
  | rampup => exact ⟨BitVec.le_trans (configValid_period hc).2.1 (hRampup hState).1, (hRampup hState).2⟩
  | on => exact hOn hState

theorem PeriodBounded.pos (hc : configValid c = true) (h : PeriodBounded c s) (hs : s.motorState ≠ .off) :
    0 < s.period := by
  obtain ⟨hPos, -⟩ := configValid_period hc
  obtain ⟨hMax, -⟩ := h.of_not_off hc hs
  rw [BitVec.lt_def] at hPos ⊢
  exact Nat.lt_of_lt_of_le hPos (BitVec.le_def.mp hMax)

/-- A TICK outside OFF ramps, which stays above the threshold, or keeps the period (R133 to R135). -/
theorem periodBounded_tick (hc : configValid c = true) (h : PeriodBounded c s) : PeriodBounded c (tick c s) := by
  have hBounds := h.of_not_off hc
  cases hs : s.motorState with
  | off => exact periodBounded_of_off (by rwa [tick_motorState, tickLogic_motorState_off_iff])
  | on =>
    obtain ⟨hOn, -, hPeriod, -⟩ := tick_on (c := c) hs
    obtain ⟨hMax, hLo⟩ := hBounds (by simp [hs])
    exact periodBounded_of_on hOn (hPeriod ▸ hMax) (hPeriod ▸ hLo)
  | rampup =>
    obtain ⟨hMax, hLo⟩ := hBounds (by simp [hs])
    by_cases hp : c.handoffTm < s.period
    · obtain ⟨hRamp, -⟩ := tick_ramp_motorState_duty hs hp
      obtain ⟨hLe, hGe⟩ := tick_period_ramp_bounds hs hp
      exact ⟨fun _ => ⟨hGe, BitVec.le_trans hLe hLo⟩, fun hOn => nomatch hRamp.symm.trans hOn⟩
    · obtain ⟨hOn, -, hPeriod, -⟩ := tick_handoff hs (BitVec.not_lt.mp hp)
      exact periodBounded_of_on hOn (hPeriod ▸ hMax) (hPeriod ▸ hLo)

end

/-! ### The counter (I6) -/

/-- Outside OFF a `COUNTED` TICK leaves the counter below the period, if that is not 0: a counter that reaches it is cleared
(R136). -/
theorem tick_tickCounter_lt_period {c : Cfg w} {s : Regs w} (hm : c.tickModel = .counted) (h : s.motorState ≠ .off)
    (hp : 0 < (tick c s).period) : (tick c s).tickCounter < (tick c s).period := by
  by_cases hDue : (tick c s).period ≤ s.tickCounter + 1
  · rw [(tick_counted_due hm h hDue).1]
    exact hp
  · rw [(tick_counted_not_due hm h hDue).1]
    exact BitVec.not_le.mp hDue

theorem tick_tickCounter_lt_loSpdTm {c : Cfg w} {s : Regs w} (hc : configValid c = true) (hm : c.tickModel = .counted)
    (h : PeriodBounded c s) : (tick c s).tickCounter < c.loSpdTm := by
  by_cases hs : s.motorState = .off
  · rw [(tick_counter_sector_of_off hs).1]
    exact configValid_loSpdTm_pos hc
  · have hBounded := periodBounded_tick hc h
    have hs' : (tick c s).motorState ≠ .off := by rwa [tick_motorState, ne_eq, tickLogic_motorState_off_iff]
    have hBelow := tick_tickCounter_lt_period hm hs (hBounded.pos hc hs')
    rw [BitVec.lt_def] at hBelow ⊢
    exact Nat.lt_of_lt_of_le hBelow (BitVec.le_def.mp (hBounded.of_not_off hc hs').2)

/-! ### The ramp registers (I7) -/

/-- The bounds of I7. -/
def RampBounded (c : Cfg w) (s : Regs w) : Prop :=
  c.rampStepTmMin ≤ s.rampInterval ∧ s.rampInterval ≤ c.rampStepTmStart ∧ s.rampTimer ≤ s.rampInterval

section
variable {c : Cfg w} {s : Regs w}

theorem RampBounded.congr {t : Regs w} (h : RampBounded c s) (hTimer : t.rampTimer = s.rampTimer)
    (hInterval : t.rampInterval = s.rampInterval) : RampBounded c t := by
  rwa [RampBounded, hTimer, hInterval]

/-- A halved interval has the floor for a lower bound, and the timer starts from the interval and counts down (R172). -/
theorem rampBounded_tick_geometric (hc : configValid c = true) (hm : c.rampMode = .geometric)
    (hs : s.motorState = .rampup) (hp : c.handoffTm < s.period) (h : RampBounded c s) : RampBounded c (tick c s) := by
  have hOrder := configValid_ramp hc
  have hHalf := toNat_halveInterval c s.rampInterval
  unfold RampBounded at h ⊢
  by_cases ht : s.rampTimer = 0
  · obtain ⟨-, hTimer, hInterval⟩ := tick_geometric_expired hm hs hp ht
    rw [hTimer, hInterval]
    simp only [BitVec.le_def] at *
    omega
  · obtain ⟨-, hInterval, hTimer⟩ := tick_geometric_running hm hs hp ht
    rw [hInterval]
    simp only [BitVec.le_def] at *
    omega

/-- Outside OFF only the `GEOMETRIC` ramp step writes the ramp registers (R132 to R135). -/
theorem rampBounded_tick (hc : configValid c = true) (hs : s.motorState ≠ .off) (h : RampBounded c s) :
    RampBounded c (tick c s) := by
  cases hState : s.motorState with
  | off => exact absurd hState hs
  | on =>
    obtain ⟨-, -, -, hTimer, hInterval⟩ := tick_on (c := c) hState
    exact h.congr hTimer hInterval
  | rampup =>
    by_cases hp : c.handoffTm < s.period
    · cases hm : c.rampMode with
      | fixed =>
        obtain ⟨hTimer, hInterval⟩ := tick_rampTimer_rampInterval_fixed hm hState hp
        exact h.congr hTimer hInterval
      | geometric => exact rampBounded_tick_geometric hc hm hState hp h
    · obtain ⟨-, -, -, hTimer, hInterval⟩ := tick_handoff hState (BitVec.not_lt.mp hp)
      exact h.congr hTimer hInterval

end

end Sys2Proof.Machine

/-! ### Each command keeps the invariants -/

namespace Sys2Proof

open Sys2Proof.Machine

section
variable {s : State}

theorem Inv.periodBounded (h : Inv s) : PeriodBounded s.cfg s.toRegs := ⟨h.rampup, h.on⟩

/-- The invariants speak of the registers and the configuration only. -/
theorem Inv.congr {t : State} (h : Inv s) (hRegs : t.toRegs = s.toRegs) (hCfg : t.cfg = s.cfg) : Inv t := by
  obtain ⟨regs, cfg, inputs, result⟩ := s
  obtain ⟨regs', cfg', inputs', result'⟩ := t
  obtain rfl : regs' = regs := hRegs
  obtain rfl : cfg' = cfg := hCfg
  exact { h with }

/-- Registers at their reset values meet the invariants of any valid configuration (R35). -/
theorem inv_of_resetRegisters {r : Regs 16} (hRegs : s.toRegs = resetRegisters r) (hc : configValid s.cfg = true) :
    Inv s := by
  obtain ⟨hPos, -⟩ := configValid_duty hc
  have hAllOff (ch : Channel) : s.out.get ch = encodePhase s.cfg.pwmPeriod 0 .off := by
    rw [hRegs]
    exact Outs.allOff_get ch
  exact {
    valid := hc
    sector := by simp [invSector, hRegs, resetRegisters, Regs.reset]
    duty := by rw [invDuty, hRegs]; exact ⟨hPos, hPos⟩
    off := fun _ => by rw [hRegs]; rfl
    rampup := by simp [invRampup, hRegs, resetRegisters, Regs.reset]
    on := by simp [invOn, hRegs, resetRegisters, Regs.reset]
    counter := by rw [invCounter, hRegs]; exact ⟨fun _ => configValid_loSpdTm_pos hc, fun _ => rfl⟩
    ramp := by simp [invRamp, hRegs, resetRegisters, Regs.reset]
    out := fun ch => ⟨⟨.off, 0, hPos, hAllOff ch⟩, hAllOff ch ▸ encodePhase_width_le hPos .off⟩ }

/-- TICK, register by register. -/
theorem Inv.tick (h : Inv s) : Inv (s.update tick) := by
  obtain ⟨hDuty, hManual⟩ := h.duty
  have hDuty' : (Machine.tick s.cfg s.toRegs).duty < s.cfg.pwmPeriod := tick_duty_lt h.valid hDuty hManual
  have hOff : (Machine.tick s.cfg s.toRegs).motorState = .off ↔ s.motorState = .off := by
    rw [tick_motorState, tickLogic_motorState_off_iff]
  obtain ⟨hRampup, hOn⟩ := periodBounded_tick h.valid h.periodBounded
  exact {
    valid := h.valid
    sector := by
      have hSector := h.sector
      rw [invSector, State.update_toRegs]
      obtain hs | ⟨-, hs⟩ := sectorKeptOrNext_tick s.cfg s.toRegs <;> rw [hs]
      · exact hSector
      · omega
    duty := ⟨hDuty', by rwa [State.update_toRegs, tick_manualDuty]⟩
    off := fun hs => by rw [State.update_toRegs, tick_duty, tickLogic_off (hOff.mp hs)]; rfl
    rampup := hRampup
    on := hOn
    counter := ⟨fun hm => tick_tickCounter_lt_loSpdTm h.valid hm h.periodBounded, fun hm => by
      rw [State.update_toRegs, tick_tickCounter_reprogram (c := s.cfg) hm, h.counter.2 hm, ite_self]⟩
    ramp := fun hs => rampBounded_tick h.valid (hOff.not.mp hs) (h.ramp (hOff.not.mp hs))
    out := fun ch => by
      obtain ⟨q, hq⟩ := tick_out_get s.cfg s.toRegs ch
      exact ⟨⟨q, _, hDuty', hq⟩, hq ▸ encodePhase_width_le hDuty' q⟩ }

theorem Inv.stop (h : Inv s) : Inv (s.update fun _ => stop) :=
  { h with
    duty := ⟨(configValid_duty h.valid).1, h.duty.2⟩
    off := fun _ => rfl
    rampup := nofun
    on := nofun
    ramp := fun hs => absurd rfl hs }

theorem Inv.setManualDuty (h : Inv s) (v : Word) : Inv (s.update (setManualDuty v)) :=
  { h with duty := ⟨h.duty.1, clampDuty_lt (configValid_duty h.valid).1 v⟩ }

/-- START sets the period and the ramp registers to the constants their bounds end at (R140). -/
theorem Inv.start (h : Inv s) : Inv (s.setRegs (start s.cfg s.toRegs)) := by
  obtain ⟨-, -, hLo⟩ := configValid_period h.valid
  rw [start_valid h.valid]
  exact { h with
    off := nofun
    rampup := fun _ => ⟨BitVec.le_of_lt hLo, BitVec.le_refl _⟩
    on := nofun
    counter := ⟨fun _ => configValid_loSpdTm_pos h.valid, fun _ => rfl⟩
    ramp := fun _ => ⟨configValid_ramp h.valid, BitVec.le_refl _, BitVec.le_refl _⟩ }

theorem Inv.setPeriod_of_on (h : Inv s) (hs : s.motorState = .on) {p : Word} (hMax : s.cfg.maxSpdTm ≤ p)
    (hLo : p ≤ s.cfg.loSpdTm) : Inv (s.setRegs (s.setPeriod p)) :=
  { h with
    rampup := fun hRampup => by simp [hs] at hRampup
    on := fun _ => ⟨hMax, hLo⟩ }

theorem Inv.speedInc (h : Inv s) : Inv (s.update speedInc) := by
  rw [State.update]
  cases hs : s.motorState with
  | off => rw [speedInc_off hs]; exact h.start
  | rampup => rw [speedInc_rampup hs]; exact h
  | on =>
    by_cases hp : s.cfg.maxSpdTm < s.period
    · obtain ⟨-, hLo⟩ := h.on hs
      have hPeriod := toNat_sub_one_of_lt hp
      rw [speedInc_on_above_bound hs hp]
      rw [BitVec.lt_def] at hp
      rw [BitVec.le_def] at hLo
      exact h.setPeriod_of_on hs (BitVec.le_def.mpr (by omega)) (BitVec.le_def.mpr (by omega))
    · rw [speedInc_on_at_bound hs (BitVec.not_lt.mp hp)]
      exact h

theorem Inv.speedDec (h : Inv s) : Inv (s.update speedDec) := by
  rw [State.update]
  cases hs : s.motorState with
  | off => rw [speedDec_off hs]; exact h.start
  | rampup => rw [speedDec_rampup hs]; exact h
  | on =>
    by_cases hp : s.period < s.cfg.loSpdTm
    · obtain ⟨hMax, -⟩ := h.on hs
      have hPeriod := toNat_add_one_of_lt hp
      rw [speedDec_on_below_bound hs hp]
      rw [BitVec.lt_def] at hp
      rw [BitVec.le_def] at hMax
      exact h.setPeriod_of_on hs (BitVec.le_def.mpr (by omega)) (BitVec.le_def.mpr (by omega))
    · rw [speedDec_on_at_bound hs (BitVec.not_lt.mp hp)]
      exact h

end

/-! ### The obligations -/

/-- Settles O45: a step is one of the commands, RESET, or changes no register. -/
theorem stepKeepsInvariants : Obligations.StepKeepsInvariants := by
  intro s t hs h
  obtain ⟨u, ins, rfl, h⟩ := step_cases h
  have hu : Inv (s.setInputs ins) := hs.congr rfl rfl
  obtain rfl | rfl | rfl | rfl | rfl | rfl | ⟨v, rfl⟩ | ⟨v, rfl⟩ := h
  · exact hu
  · exact inv_of_resetRegisters (State.update_toRegs _ _) hs.valid
  · exact hu.tick
  · exact hu.stop
  · exact hu.speedInc
  · exact hu.speedDec
  · exact hu.setManualDuty v
  · exact hu.congr rfl rfl

/-- Settles O46: the registers at reset are those RESET leaves. -/
theorem invariantsAtReset : Obligations.InvariantsAtReset := fun _ hc => inv_of_resetRegisters (r := .reset) rfl hc

/-- Settles O47: the period a TICK leaves outside OFF is not 0, as the invariants it keeps say, and the counter is below
it. -/
theorem counterBelowPeriodAfterTick : Obligations.CounterBelowPeriodAfterTick := by
  intro s h
  refine ⟨_, exec_tick s, fun hm hs => ?_⟩
  have hs' : s.motorState ≠ .off := by
    rwa [State.update_toRegs, tick_motorState, ne_eq, tickLogic_motorState_off_iff] at hs
  exact tick_tickCounter_lt_period hm hs' (h.tick.periodBounded.pos h.valid hs)

end Sys2Proof
end

