-- ==== Sys2Proof/Proofs/SectorRoles.lean ====
section
/-! `TableValid` (42_sector_table.md R196) in the spec's words: T1 to T3 as counts of phase states, T4 to T6 as statements
about the roles of the channels (R195). The enable pattern of an entry (R197). -/

namespace Sys2Proof.Machine

/-! ### Counting phase states -/

/-- The state of a phase. -/
def Phases.get (p : Phases) : Channel → PhaseChannelState
  | .a => p.a
  | .b => p.b
  | .c => p.c

/-- A class that two others split is counted by them. -/
theorem Phases.count_add {f g k : PhaseChannelState → Bool} (h : ∀ q, (f q).toNat = (g q).toNat + (k q).toNat)
    (p : Phases) : p.count f = p.count g + p.count k := by
  simp only [Phases.count, h]
  omega

theorem Phases.count_le_three (p : Phases) (f : PhaseChannelState → Bool) : p.count f ≤ 3 := by
  have hBool (b : Bool) : b.toNat ≤ 1 := by cases b <;> decide
  have ha := hBool (f p.a)
  have hb := hBool (f p.b)
  have hc := hBool (f p.c)
  unfold Phases.count
  omega

theorem one_of_three_of_toNat_add_eq_one : ∀ a b c : Bool, a.toNat + b.toNat + c.toNat = 1 →
    a = true ∧ b = false ∧ c = false ∨ a = false ∧ b = true ∧ c = false ∨ a = false ∧ b = false ∧ c = true := by
  decide

theorem Phases.existsUnique_of_count_eq_one {p : Phases} {f : PhaseChannelState → Bool} (h : p.count f = 1) :
    ∃! ch, f (p.get ch) = true := by
  obtain ⟨ha, hb, hc⟩ | ⟨ha, hb, hc⟩ | ⟨ha, hb, hc⟩ := one_of_three_of_toNat_add_eq_one _ _ _ h
  · exact ⟨.a, ha, fun ch hch => by cases ch <;> simp_all [Phases.get]⟩
  · exact ⟨.b, hb, fun ch hch => by cases ch <;> simp_all [Phases.get]⟩
  · exact ⟨.c, hc, fun ch hch => by cases ch <;> simp_all [Phases.get]⟩

section
variable (p : Phases)

theorem count_pwm : p.count (fun q => q == .pwmPlus || q == .pwmMinus) = p.count (· == .pwmPlus) + p.count (· == .pwmMinus) :=
  p.count_add fun q => by cases q <;> rfl

/-- A driven phase is modulated or at a rail (30_encoding.md R95, R195). -/
theorem count_driven : p.count driven =
    p.count (fun q => q == .pwmPlus || q == .pwmMinus) + p.count (fun q => q == .driveHigh || q == .driveLow) :=
  p.count_add fun q => by cases q <;> rfl

/-- The codes T1 admits are Float and the driven ones. -/
theorem count_tableCode : p.count tableCode = p.count (· == .float) + p.count driven :=
  p.count_add fun q => by cases q <;> rfl

/-- T1 says that all three phases have an admitted code. -/
theorem tableT1_iff : tableT1 p = true ↔ p.count tableCode = 3 := by
  unfold tableT1 Phases.count
  cases tableCode p.a <;> cases tableCode p.b <;> cases tableCode p.c <;> decide

/-! ### T1 to T3 -/

theorem tableT23_asymRail_iff : tableT23 .asymRail p = true ↔
    p.count (fun q => q == .pwmPlus || q == .pwmMinus) = 1 ∧ p.count (fun q => q == .driveHigh || q == .driveLow) = 1 ∧
      p.count (· == .float) = 1 := by
  have hModulated : (fun q => role .asymRail q == .modulated) = fun q => q == .pwmPlus || q == .pwmMinus := by
    funext q
    cases q <;> rfl
  have hRail : (fun q => role .asymRail q == .rail) = fun q => q == .driveHigh || q == .driveLow := by
    funext q
    cases q <;> rfl
  simp only [tableT23, hModulated, hRail, Bool.and_eq_true, beq_iff_eq, and_assoc]

theorem tableT23_symCompl_iff : tableT23 .symCompl p = true ↔
    p.count (· == .pwmPlus) = 1 ∧ p.count (· == .pwmMinus) = 1 ∧ p.count (· == .float) = 1 := by
  simp only [tableT23, Bool.and_eq_true, beq_iff_eq, and_assoc]

/-- T2 and T3 leave no room for another code: three phases are counted already. -/
theorem count_of_tableT23 {m : DriveMode} (h : tableT23 m p = true) : p.count (· == .float) = 1 ∧ p.count driven = 2 := by
  have hDriven := count_driven p
  have hCode := count_tableCode p
  have hThree := p.count_le_three tableCode
  cases m with
  | asymRail =>
    obtain ⟨hPwm, hRail, hFloat⟩ := (tableT23_asymRail_iff p).mp h
    omega
  | symCompl =>
    obtain ⟨hPlus, hMinus, hFloat⟩ := (tableT23_symCompl_iff p).mp h
    have hPwm := count_pwm p
    omega

theorem tableT1_of_tableT23 {m : DriveMode} (h : tableT23 m p = true) : tableT1 p = true := by
  obtain ⟨hFloat, hDriven⟩ := count_of_tableT23 p h
  rw [tableT1_iff, count_tableCode, hFloat, hDriven]

theorem tableCode_get {p : Phases} (h : tableT1 p = true) (ch : Channel) : tableCode (p.get ch) = true := by
  simp only [tableT1, Bool.and_eq_true] at h
  obtain ⟨⟨ha, hb⟩, hc⟩ := h
  cases ch <;> assumption

end

/-- Of the codes T1 admits only Float has the floating role (R195). -/
theorem role_eq_floating_iff {m : DriveMode} {q : PhaseChannelState} (h : tableCode q = true) :
    role m q = .floating ↔ (q == .float) = true := by
  revert h
  cases q <;> cases m <;> decide

/-- Exactly one phase of an entry has the floating role. -/
theorem existsUnique_floating {m : DriveMode} {p : Phases} (h : tableT23 m p = true) :
    ∃! ch, role m (p.get ch) = .floating := by
  simp only [role_eq_floating_iff (tableCode_get (tableT1_of_tableT23 p h) _)]
  exact Phases.existsUnique_of_count_eq_one (count_of_tableT23 p h).1

/-! ### T4 to T6 -/

/-- The roles of the three channels, as the table's conditions take them. -/
def roleTriple (ρ : Channel → Role) : Role × Role × Role := (ρ .a, ρ .b, ρ .c)

/-- The role of a channel in the entry of a sector. -/
def entryRole (t : SectorTable) (m : DriveMode) (s : BitVec 3) (ch : Channel) : Role := role m ((tableRead t s).get ch)

theorem sectorRoles_eq (t : SectorTable) (m : DriveMode) (s : BitVec 3) :
    sectorRoles t m s = roleTriple (entryRole t m s) := rfl

theorem roleTriple_inj {ρ ρ' : Channel → Role} : roleTriple ρ = roleTriple ρ' ↔ ∀ ch, ρ ch = ρ' ch := by
  simp only [roleTriple, Prod.mk.injEq]
  constructor
  · rintro ⟨ha, hb, hc⟩ ch
    cases ch <;> assumption
  · exact fun h => ⟨h .a, h .b, h .c⟩

section
variable {ρ ρ' : Channel → Role}

theorem keptOne_iff {k k' x x' y y' : Role} :
    keptOne k k' x x' y y' = true ↔ k = k' ∧ x = y' ∧ y = x' ∧ x ≠ x' ∧ y ≠ y' := by
  simp only [keptOne, Bool.and_eq_true, beq_iff_eq, bne_iff_ne, and_assoc]

/-- T4: one channel keeps its role, the other two exchange theirs. -/
theorem tableT4_iff : tableT4 (roleTriple ρ) (roleTriple ρ') = true ↔
    ∃ k x y : Channel, k ≠ x ∧ k ≠ y ∧ x ≠ y ∧
      ρ k = ρ' k ∧ ρ x = ρ' y ∧ ρ y = ρ' x ∧ ρ x ≠ ρ' x ∧ ρ y ≠ ρ' y := by
  simp only [tableT4, roleTriple, Bool.or_eq_true, keptOne_iff]
  constructor
  · rintro ((h | h) | h)
    · exact ⟨.a, .b, .c, nofun, nofun, nofun, h⟩
    · exact ⟨.b, .a, .c, nofun, nofun, nofun, h⟩
    · exact ⟨.c, .a, .b, nofun, nofun, nofun, h⟩
  · rintro ⟨k, x, y, hkx, hky, hxy, h⟩
    cases k <;> cases x <;> cases y <;> grind

/-- T5: a channel that keeps its role does not float. -/
theorem tableT5_iff : tableT5 (roleTriple ρ) (roleTriple ρ') = true ↔ ∀ ch, ρ ch = ρ' ch → ρ ch ≠ .floating := by
  simp only [tableT5, roleTriple, Bool.and_eq_true, Bool.or_eq_true, bne_iff_ne, ← imp_iff_not_or, ne_eq]
  constructor
  · rintro ⟨⟨ha, hb⟩, hc⟩ ch
    cases ch <;> assumption
  · exact fun h => ⟨⟨h .a, h .b⟩, h .c⟩

/-- A commutation step hands over one role (R196): one channel keeps its role and is driven, the other two exchange theirs,
one of them floating before and the other after. -/
def HandsOver (ρ ρ' : Channel → Role) : Prop :=
  ∃ k x y : Channel, k ≠ x ∧ k ≠ y ∧ x ≠ y ∧
    ρ k = ρ' k ∧ ρ k ≠ .floating ∧ ρ x = ρ' y ∧ ρ y = ρ' x ∧ ρ x = .floating ∧ ρ y ≠ .floating

theorem channel_eq_or_eq {k x y : Channel} (hkx : k ≠ x) (hky : k ≠ y) (hxy : x ≠ y) {f : Channel} (hf : f ≠ k) :
    f = x ∨ f = y := by
  cases k <;> cases x <;> cases y <;> cases f <;> simp_all

/-- With one floating channel before the step, T4 and T5 make it one of the two that exchange. -/
theorem handsOver_of_tableT4_tableT5 (hFloat : ∃! ch, ρ ch = .floating)
    (h4 : tableT4 (roleTriple ρ) (roleTriple ρ') = true) (h5 : tableT5 (roleTriple ρ) (roleTriple ρ') = true) :
    HandsOver ρ ρ' := by
  obtain ⟨k, x, y, hkx, hky, hxy, hKept, hxy', hyx', -, -⟩ := tableT4_iff.mp h4
  have hk : ρ k ≠ .floating := tableT5_iff.mp h5 k hKept
  obtain ⟨f, hf, hUnique⟩ := hFloat
  have hOther {ch : Channel} (h : ch ≠ f) : ρ ch ≠ .floating := fun hch => h (hUnique ch hch)
  obtain rfl | rfl := channel_eq_or_eq hkx hky hxy (f := f) (by rintro rfl; exact hk hf)
  · exact ⟨k, f, y, hkx, hky, hxy, hKept, hk, hxy', hyx', hf, hOther hxy.symm⟩
  · exact ⟨k, f, x, hky, hkx, hxy.symm, hKept, hk, hyx', hxy', hf, hOther hxy⟩

theorem tableT4_tableT5_of_handsOver (h : HandsOver ρ ρ') :
    tableT4 (roleTriple ρ) (roleTriple ρ') = true ∧ tableT5 (roleTriple ρ) (roleTriple ρ') = true := by
  obtain ⟨k, x, y, hkx, hky, hxy, hKept, hk, hxy', hyx', hx, hy⟩ := h
  have hxChanged : ρ x ≠ ρ' x := by rwa [← hyx', hx, ne_comm, ne_eq]
  have hyChanged : ρ y ≠ ρ' y := by rwa [← hxy', hx]
  refine ⟨tableT4_iff.mpr ⟨k, x, y, hkx, hky, hxy, hKept, hxy', hyx', hxChanged, hyChanged⟩,
    tableT5_iff.mpr fun ch hch => ?_⟩
  by_cases hck : ch = k
  · rwa [hck]
  · obtain rfl | rfl := channel_eq_or_eq hkx hky hxy hck
    · exact absurd hch hxChanged
    · exact absurd hch hyChanged

end

/-- T6 on a list: no roles occur twice. -/
theorem allDifferent_iff_nodup (l : List (Role × Role × Role)) : allDifferent l = true ↔ l.Nodup := by
  induction l with
  | nil => simp [allDifferent]
  | cons r l ih =>
    simp only [allDifferent, Bool.and_eq_true, List.all_eq_true, bne_iff_ne, List.nodup_cons, ih, and_congr_left_iff]
    exact fun _ => ⟨fun h hMem => h r hMem rfl, fun h r' hMem hEq => h (hEq ▸ hMem)⟩

theorem mem_sectors_iff {s : BitVec 3} : s ∈ sectors ↔ s.toNat ≤ 5 := by
  revert s
  decide

/-- `TableValid`, condition by condition (R196); T1 follows from T2 and T3. -/
theorem tableValid_iff (t : SectorTable) (m : DriveMode) : tableValid t m = true ↔
    (∀ s : BitVec 3, s.toNat ≤ 5 → tableT23 m (tableRead t s) = true) ∧
    (∀ s : BitVec 3, s.toNat ≤ 5 →
      tableT4 (roleTriple (entryRole t m s)) (roleTriple (entryRole t m (nextSector s))) = true ∧
      tableT5 (roleTriple (entryRole t m s)) (roleTriple (entryRole t m (nextSector s))) = true) ∧
    ∀ s s' : BitVec 3, s.toNat ≤ 5 → s'.toNat ≤ 5 → s ≠ s' → ∃ ch, entryRole t m s ch ≠ entryRole t m s' ch := by
  have hT1 (p : Phases) : tableT1 p = true ∧ tableT23 m p = true ↔ tableT23 m p = true :=
    and_iff_right_of_imp (tableT1_of_tableT23 p)
  have hT6 : (sectors.map (sectorRoles t m)).Nodup ↔ ∀ s s' : BitVec 3, s.toNat ≤ 5 → s'.toNat ≤ 5 → s ≠ s' →
      ∃ ch, entryRole t m s ch ≠ entryRole t m s' ch := by
    rw [List.nodup_map_iff_inj_on (by decide)]
    simp only [sectorRoles_eq, roleTriple_inj, mem_sectors_iff, ne_eq, ← not_forall, not_imp_not]
    exact ⟨fun h s s' hs hs' => h s hs s' hs', fun h s hs s' hs' => h s s' hs hs'⟩
  simp only [tableValid, Bool.and_eq_true, List.all_eq_true, allDifferent_iff_nodup, hT1, hT6, mem_sectors_iff,
    sectorRoles_eq, and_assoc]

/-! ### Enable patterns -/

theorem getLsbD_mask3 (a b c : Bool) :
    (mask3 a b c).getLsbD 0 = a ∧ (mask3 a b c).getLsbD 1 = b ∧ (mask3 a b c).getLsbD 2 = c := by
  revert a b c
  decide

theorem enablePattern_eq_mask3 (p : Phases) : enablePattern p = mask3 (driven p.a) (driven p.b) (driven p.c) := rfl

theorem enableMask_eq_mask3 {w : Nat} (o : Outs w) : enableMask o = mask3 o.a.drvEn o.b.drvEn o.c.drvEn := rfl

/-- ENCODE enables a channel exactly when its phase is driven (43_phase_encoder.md R210, R223). -/
theorem encodePhase_drvEn {w : Nat} (p d : BitVec w) (q : PhaseChannelState) : (encodePhase p d q).drvEn = driven q := by
  cases q <;> rfl

/-! ### The obligations -/

/-- Settles O40: the class table of R195, T6, and the counts that T2 and T3 fix. -/
theorem validTableDrivesTwoPhases : Obligations.ValidTableDrivesTwoPhases := by
  refine ⟨fun m => by cases m <;> rfl, fun t m h s s' hs hs' hne ⟨ha, hb, hc⟩ => ?_, fun t m h s hs => ?_⟩
  · obtain ⟨-, -, hT6⟩ := (tableValid_iff t m).mp h
    obtain ⟨ch, hch⟩ := hT6 s s' hs hs' hne
    exact hch (by cases ch <;> assumption)
  · obtain ⟨hEntries, -, -⟩ := (tableValid_iff t m).mp h
    have hT23 := hEntries s hs
    obtain ⟨hFloat, hDriven⟩ := count_of_tableT23 _ hT23
    refine ⟨hFloat, hDriven, ?_, ?_, getLsbD_mask3 _ _ _⟩
    · rintro rfl
      obtain ⟨hPwm, hRail, -⟩ := (tableT23_asymRail_iff _).mp hT23
      exact ⟨hPwm, hRail⟩
    · rintro rfl
      obtain ⟨hPlus, hMinus, -⟩ := (tableT23_symCompl_iff _).mp hT23
      exact ⟨hPlus, hMinus⟩

/-- Settles O42: with one floating phase in each entry T4 and T5 are the hand-over, and the counts are T2 and T3. -/
theorem validTableHandsOverOneRole : Obligations.ValidTableHandsOverOneRole := by
  intro t m
  refine ⟨fun h s s' hs hs' => ?_, fun hSteps hEntries hDiffer =>
    (tableValid_iff t m).mpr ⟨fun s hs => ?_, fun s hs => ?_, hDiffer⟩⟩
  · obtain ⟨hT23, hSteps, -⟩ := (tableValid_iff t m).mp h
    obtain rfl : s' = nextSector s := BitVec.eq_of_toNat_eq (hs'.trans (toNat_nextSector s).symm)
    obtain ⟨h4, h5⟩ := hSteps s hs
    exact handsOver_of_tableT4_tableT5 (existsUnique_floating (hT23 s hs)) h4 h5
  · obtain ⟨hFloat, hMode⟩ := hEntries s hs
    cases m with
    | asymRail => exact (tableT23_asymRail_iff _).mpr ⟨hMode.1, hMode.2, hFloat⟩
    | symCompl => exact (tableT23_symCompl_iff _).mpr ⟨hMode.1, hMode.2, hFloat⟩
  · exact tableT4_tableT5_of_handsOver (hSteps s (nextSector s) hs (toNat_nextSector s))

/-- Settles O41: a channel is enabled exactly when its phase is driven, and (Off, Off, Off) drives none. -/
theorem enableMaskIsPattern : Obligations.EnableMaskIsPattern := by
  have hPattern (w : Nat) (p d : BitVec w) (q : Phases) : enableMask (encodePhases p d q) = enablePattern q := by
    simp only [enableMask_eq_mask3, enablePattern_eq_mask3, encodePhases, encodePhase_drvEn]
  exact ⟨hPattern, fun w p d => hPattern w p d ⟨.off, .off, .off⟩⟩

end Sys2Proof.Machine
end

