-- ==== Sys2Proof/Proofs/CommandPort.lean ====
section
/-! One step of the machine on each kind of input (10_state.md R33, 20_memory.md R70): a command word, a word of the opcode
table, a data word, simultaneous requests, the reset port, nothing. -/

namespace Sys2Proof.Machine

/-! ### Words of the opcode table -/

/-- The table reader on a word that fits its format decodes the word itself (20_memory.md R65). -/
theorem decodeTableWord_eq {nbits w : Nat} {f : Format} (hf : tableFormat nbits = f) (hw : w < 2 ^ f.width) :
    decodeTableWord nbits w = (decodeWord f w).toOption := by
  have hBytes : w < 2 ^ (8 * f.byteLength) := Nat.lt_of_lt_of_le hw (Nat.pow_le_pow_right (by decide) (width_le_bytes f))
  simp only [decodeTableWord, hf, if_pos hBytes, decodeBytes_bytesOfNat hw]
  cases decodeWord f w <;> rfl

theorem exists_toNat_eq {n w : Nat} (h : w < 2 ^ n) : ∃ x : BitVec n, x.toNat = w := ⟨BitVec.ofNatLT w h, rfl⟩

theorem tableInput_24 (x : CmdWord) : tableInput 24 x.toNat = some (.cmd x) :=
  (if_pos x.isLt).trans (by rw [BitVec.ofNat_toNat, BitVec.setWidth_eq])

theorem tableInput_8 (x : BitVec 3) : tableInput 8 x.toNat = some (.eval (.pcs x)) :=
  (if_pos x.isLt).trans (by rw [BitVec.ofNat_toNat, BitVec.setWidth_eq])

theorem tableInput_16 (x : SectWord) : tableInput 16 x.toNat = some (.eval (.sect x)) :=
  (if_pos x.isLt).trans (by rw [BitVec.ofNat_toNat, BitVec.setWidth_eq])

/-! ### Data words -/

/-- A data word runs its row, where it has one (log entry 7). -/
theorem evalData_of_decodeData {d : DataWord} {i : Instr} (h : decodeData d = .ok i) (s : State) :
    evalData d s = exec i s := by
  cases d with
  | mstate w => cases h; rfl
  | pcs w => cases h; rfl
  | sect w => simp only [evalData, show decodeSect w = .ok i from h]

/-- The row of an entry word evaluates that word (30_encoding.md R94, R193, R194). -/
theorem exec_of_decodeSect {w : SectWord} {i : Instr} (h : decodeSect w = .ok i) (s : State) :
    exec i s = .next (evalEntry w s) := by
  have hWord : BitVec.ofNat 9 w.toNat = w := by rw [BitVec.ofNat_toNat, BitVec.setWidth_eq]
  unfold decodeSect at h
  split at h
  case h_13 => cases h
  all_goals
    rename_i hw
    cases h
    rw [← hWord, hw]
    rfl

/-- Every entry word evaluates to the triple TableRead gives for it, whether or not it is a row. -/
theorem evalData_sect (w : SectWord) (s : State) : evalData (.sect w) s = .next (evalEntry w s) := by
  cases h : decodeSect w with
  | ok i => exact (evalData_of_decodeData (d := .sect w) h s).trans (exec_of_decodeSect h s)
  | error e => simp only [evalData, h]

/-! ### The obligations -/

/-- Settles O4: the command's meaning is the core's step, run on the registers. -/
theorem stepRunsDecodedCommand : Obligations.StepRunsDecodedCommand := by
  intro s w rest h
  rw [step_of_inputs_cons h]
  exact ⟨rfl, exec_decodeCmd w _⟩

/-- Settles O5: what `withFetchWord` puts in front is the input whose word the table reader decodes. -/
theorem presentedWordRuns : Obligations.PresentedWordRuns := by
  refine ⟨fun s w hw => ?_, fun s w hw => ?_, fun s w i h => ?_⟩
  · obtain ⟨x, rfl⟩ := exists_toNat_eq hw
    refine ⟨decodeCmd x, ?_, step_withFetchWord (tableInput_24 x)⟩
    rw [decodeTableWord_eq (f := .cmd) rfl x.isLt, decodeWord_cmd]
    rfl
  · obtain ⟨x, rfl⟩ := exists_toNat_eq hw
    refine ⟨decodePcs x, ?_, step_withFetchWord (tableInput_8 x)⟩
    rw [decodeTableWord_eq (f := .pcs) rfl x.isLt, decodeWord_pcs]
    rfl
  · refine ⟨?_, (step_withFetchWord (tableInput_16 w)).trans (evalData_of_decodeData (d := .sect w) h s)⟩
    rw [decodeTableWord_eq (f := .sect) rfl w.isLt, decodeWord_sect, h]
    rfl

/-- Settles O6: with no input a step is the idle one. -/
theorem idleWithoutInput : Obligations.IdleWithoutInput := fun _ => step_of_inputs_nil

/-- Settles O7: the input after the word is what remains, and the word runs its row. -/
theorem stepEvaluatesDataWord : Obligations.StepEvaluatesDataWord := fun s _ _ rest hi h =>
  (step_of_inputs_cons hi).trans (evalData_of_decodeData h (s.setInputs rest))

/-- Settles O8: the code table is closed, and every entry word evaluates alike. -/
theorem entryWordsEvaluate : Obligations.EntryWordsEvaluate :=
  ⟨rfl, fun s w rest hi => (step_of_inputs_cons hi).trans (evalData_sect w (s.setInputs rest))⟩

/-- Settles O11: accepting the requests puts their commands in front of what remains. -/
theorem stepArbitratesRequests : Obligations.StepArbitratesRequests := fun _ _ _ hi => step_of_inputs_cons hi

/-- Settles O13: the port `rst` runs RESET on the registers, which keeps the record of the stream. -/
theorem resetPort : Obligations.ResetPort := fun _ _ hi => step_of_inputs_cons hi

end Sys2Proof.Machine
end

