-- ==== Sys2Proof/Proofs/Rows.lean ====
section
/-! The rows of the opcode table that are no commands: directives (30_encoding.md R110 to R114) and data words (R91, R92,
R94); the table read they denote (20_memory.md R62, R66); and what the output ports show (10_state.md R33). -/

namespace Sys2Proof.Machine

variable {w : Nat}

/-! ### Directives -/

/-- A directive row emits its directive and changes nothing else (30_encoding.md R110). -/
theorem exec_config (ch : Channel) (pwmEn level : Bool) (width : Word) (s : State) :
    exec (.config ch pwmEn level width) s = .next (s.update fun _ => emit (.config ch pwmEn level width)) := rfl

theorem Outs.get_set_same (o : Outs w) (ch : Channel) (r : OutReg w) : (o.set ch r).get ch = r := by
  cases ch <;> rfl

theorem Outs.get_set_of_ne (o : Outs w) {ch ch' : Channel} (h : ch' ≠ ch) (r : OutReg w) :
    (o.set ch r).get ch' = o.get ch' := by
  cases ch <;> cases ch' <;> simp_all [Outs.set, Outs.get]

/-- Settles O30: each row is `emit`; Config writes one channel, the other two every `drv_en`. -/
theorem directiveEffects : Obligations.DirectiveEffects := fun s =>
  ⟨rfl, fun ch p l v => ⟨_, exec_config ch p l v s, rfl, Outs.get_set_same _ _ _, fun _ h => Outs.get_set_of_ne _ h _⟩,
    fun _ => rfl⟩

/-- Settles O31: SetTickPeriod is `emit`, and it writes no output. -/
theorem setTickPeriodEffect : Obligations.SetTickPeriodEffect := fun _ _ => rfl

/-! ### Data words -/

/-- Settles O34, row by row of the table of R211 to R215. -/
theorem phaseRowsEvaluate : Obligations.PhaseRowsEvaluate := fun _ => ⟨rfl, rfl, rfl, rfl, rfl, rfl, rfl, rfl⟩

/-- Settles O35: each of the three rows denotes its own state. -/
theorem motorStateRowsEvaluate : Obligations.MotorStateRowsEvaluate := fun _ => ⟨rfl, rfl, rfl⟩

/-- Settles O36: the row refuses, whatever the state. -/
theorem reservedMotorStateStops : Obligations.ReservedMotorStateStops := fun _ => rfl

/-- Settles O37: each row evaluates its closed word, field by field (R94). -/
theorem asymRailRowsEvaluate : Obligations.AsymRailRowsEvaluate := fun _ => ⟨rfl, rfl, rfl, rfl, rfl, rfl⟩

/-- Settles O38: each row evaluates its closed word, field by field (R94). -/
theorem symComplRowsEvaluate : Obligations.SymComplRowsEvaluate := fun _ => ⟨rfl, rfl, rfl, rfl, rfl, rfl⟩

/-- Settles O43: the eight sector codes one by one, and the override of a zero duty as it stands. -/
theorem reservedSectorReadsOff : Obligations.ReservedSectorReadsOff :=
  ⟨fun _ => ⟨rfl, rfl, rfl, rfl, rfl, rfl, rfl, rfl⟩, fun _ _ _ => rfl⟩

/-! ### The output ports -/

/-- The word of a directive that carries a value alone: four 0 bits stand between the value and the kind (R115). -/
theorem dirFields_value_kind (value : BitVec w) (kind : BitVec 2) :
    dirFields value false false 0 kind = value ++ ((0 : BitVec 4) ++ kind) := by
  simp [dirFields, BitVec.append_assoc]

theorem dirWord_disableAll : dirWord (.disableAll : Directive w) = 0 := by
  rw [dirWord, dirFields_value_kind]
  simp

/-- The word that `dir` shows for a directive is its own (R33, R115). -/
theorem portDir_getElem? (s : Regs w) {d : Nat} (h : d < s.directives.length) :
    (portDir s)[d]? = some (dirWord s.directives[d]) := by
  rw [portDir, List.getElem?_map, List.getElem?_eq_getElem h]
  rfl

/-- Settles O12: a mask port shows bit by bit what it is made of, the other ports are the registers, and the words of `dir`
are those of R115 field by field. -/
theorem resetValues : Obligations.ResetValues := by
  refine ⟨rfl, rfl, rfl, rfl, rfl, rfl, rfl, rfl, Outs.allOff_get, rfl, rfl, fun w c s => ?_⟩
  obtain ⟨hDrvA, hDrvB, hDrvC⟩ := getLsbD_mask3 s.out.a.drvEn s.out.b.drvEn s.out.c.drvEn
  obtain ⟨hPwmA, hPwmB, hPwmC⟩ := getLsbD_mask3 s.out.a.pwmEn s.out.b.pwmEn s.out.c.pwmEn
  obtain ⟨hLevelA, hLevelB, hLevelC⟩ := getLsbD_mask3 s.out.a.level s.out.b.level s.out.c.level
  refine ⟨hDrvA, hDrvB, hDrvC, hPwmA, hPwmB, hPwmC, hLevelA, hLevelB, hLevelC, rfl, rfl, rfl, rfl, ?_, rfl, rfl, rfl, rfl,
    List.length_map _, fun d h => ?_⟩
  · rw [portMotorState]
    cases s.motorState <;> rfl
  · rw [portDir_getElem? s h]
    cases s.directives[d] with
    | disableAll => exact congrArg some dirWord_disableAll
    | config ch pwmEn level width => cases ch <;> rfl
    | enableSet mask => exact congrArg some (dirFields_value_kind _ 2)
    | setTickPeriod value => exact congrArg some (dirFields_value_kind value 3)

end Sys2Proof.Machine
end

