-- ==== Sys2Proof/Proofs/CommandFrame.lean ====
section
/-! What the commands leave unchanged (10_state.md R37), and what a TICK with a zero duty leaves: after STOP
(70_reset_and_hazards.md R296, R303) and in ON with a zero manual duty (R297). -/

namespace Sys2Proof.Machine

variable {w : Nat}

/-! ### Frames -/

/-- Settles O20: each command writes the registers of its own rule only. -/
theorem commandFrame : Obligations.CommandFrame := by
  intro i s t hi hTick h
  cases i with
  | tick => exact absurd rfl hTick
  | nop | reserved6 | reserved7 => cases h; simp
  | stop => cases h; simp [stop]
  | speedInc | speedDec => cases h; simp
  | setManualDuty v => cases h; simp [setManualDuty]
  | _ => cases hi

/-- Settles O29: TICK writes no manual duty, and no rule of the core writes anything around the registers. -/
theorem tickFrame : Obligations.TickFrame := fun s =>
  ⟨_, exec_tick s, tick_manualDuty s.cfg s.toRegs, rfl, rfl, rfl⟩

/-! ### The clamp at a PWM period of 0 -/

/-- The bound `PWM_PERIOD - 1` wraps to the largest word (00_scope.md R14). -/
theorem clampDuty_of_pwmPeriod_eq_zero {c : Cfg w} (h : c.pwmPeriod = 0) (v : BitVec w) : clampDuty c v = v := by
  have hBound : c.pwmPeriod - 1 = BitVec.allOnes w := by simp [h, BitVec.neg_one_eq_allOnes]
  rw [clampDuty, hBound, if_pos (by rw [BitVec.le_def, BitVec.toNat_allOnes]; exact toNat_le_two_pow_sub_one v)]

/-- Settles O19: the one register written takes the operand as it is. -/
theorem setManualDutyZeroPeriod : Obligations.SetManualDutyZeroPeriod := fun s v h =>
  (exec_setManualDuty v s).trans (next_update_eq (congrArg s.setManualDuty (clampDuty_of_pwmPeriod_eq_zero h v)))

/-! ### A TICK that leaves a zero duty -/

/-- No commutation step is taken at a zero duty (40_state_machine.md R138). -/
theorem tick_sector_of_duty_zero {c : Cfg w} {s : Regs w} (h : (tick c s).duty = 0) : (tick c s).sector = s.sector := by
  obtain hKept | ⟨hDuty, -⟩ := sectorKeptOrNext_tick c s
  · exact hKept
  · exact absurd h hDuty

/-- A TICK that leaves a zero duty holds the sector and drives nothing (R297, R303). -/
theorem tick_sector_out_of_duty_zero {c : Cfg w} {s : Regs w} (h : (tick c s).duty = 0) :
    (tick c s).sector = s.sector ∧ ∀ ch, (tick c s).out.get ch = ⟨false, false, false, 0⟩ :=
  ⟨tick_sector_of_duty_zero h, fun ch => by rw [tick_out_of_duty_zero h, Outs.allOff_get]⟩

theorem tick_off_motorState_duty {c : Cfg w} {s : Regs w} (h : s.motorState = .off) :
    (tick c s).motorState = .off ∧ (tick c s).duty = 0 := by
  rw [tick_motorState, tick_duty, tickLogic_off h]
  exact ⟨h, rfl⟩

/-- Settles O59: STOP writes `MotorState` and the duty, and the TICK after it is one in OFF, which leaves a zero duty. -/
theorem stopThenTick : Obligations.StopThenTick := by
  intro s
  have hOff : (stop s.toRegs).motorState = .off := rfl
  obtain ⟨hState, hDuty⟩ := tick_off_motorState_duty (c := s.cfg) hOff
  exact ⟨_, _, exec_stop s, exec_tick _, rfl, rfl, rfl, rfl, hState, tick_period_of_off hOff,
    tick_sector_out_of_duty_zero hDuty⟩

/-- Settles O60: in manual mode the ON arm takes over the manual duty, so the TICK leaves a zero duty. -/
theorem manualZeroDutyHoldsSector : Obligations.ManualZeroDutyHoldsSector := by
  intro s hMode hs hManual
  obtain ⟨hOn, hDuty, -⟩ := tick_on (c := s.cfg) hs
  have hZero : (tick s.cfg s.toRegs).duty = 0 := by rw [hDuty, if_pos hMode, hManual]
  exact ⟨_, exec_tick s, hOn, hZero, tick_sector_out_of_duty_zero hZero⟩

end Sys2Proof.Machine
end

