-- ==== Sys2Proof/Proofs/Transitions.lean ====
section
/-! What a step can do to `MotorState` (40_state_machine.md R130), to the machine in OFF under an invalid configuration
(60_exceptions.md R262), and to the period of a ramp (41_ramp_generator.md R173). -/

namespace Sys2Proof.Machine

variable {w : Nat}

/-! ### The transitions of `MotorState` -/

section
variable {c : Cfg w} {s : Regs w}

/-- START goes from OFF to RAMPUP, in a valid configuration (R140, R262). -/
theorem start_transition (hs : s.motorState = .off) (h : (start c s).motorState ≠ s.motorState) :
    s.motorState = .off ∧ (start c s).motorState = .rampup ∧ configValid c = true := by
  cases hc : configValid c with
  | true => exact ⟨hs, by rw [start_valid hc]; rfl, rfl⟩
  | false => exact absurd (congrArg Regs.motorState (start_invalid hc)) h

theorem speedInc_transition (h : (speedInc c s).motorState ≠ s.motorState) :
    s.motorState = .off ∧ (speedInc c s).motorState = .rampup ∧ configValid c = true := by
  cases hs : s.motorState with
  | off =>
    rw [speedInc_off hs] at h ⊢
    exact hs ▸ start_transition hs h
  | rampup => exact absurd (congrArg Regs.motorState (speedInc_rampup hs)) h
  | on =>
    refine absurd ?_ h
    by_cases hp : c.maxSpdTm < s.period
    · rw [speedInc_on_above_bound hs hp, Regs.setPeriod_motorState]
    · rw [speedInc_on_at_bound hs (BitVec.not_lt.mp hp)]

theorem speedDec_transition (h : (speedDec c s).motorState ≠ s.motorState) :
    s.motorState = .off ∧ (speedDec c s).motorState = .rampup ∧ configValid c = true := by
  cases hs : s.motorState with
  | off =>
    rw [speedDec_off hs] at h ⊢
    exact hs ▸ start_transition hs h
  | rampup => exact absurd (congrArg Regs.motorState (speedDec_rampup hs)) h
  | on =>
    refine absurd ?_ h
    by_cases hp : s.period < c.loSpdTm
    · rw [speedDec_on_below_bound hs hp, Regs.setPeriod_motorState]
    · rw [speedDec_on_at_bound hs (BitVec.not_lt.mp hp)]

/-- The transition of TICK is the hand-off (R134). -/
theorem tick_transition (h : (tick c s).motorState ≠ s.motorState) :
    s.motorState = .rampup ∧ (tick c s).motorState = .on ∧ s.period ≤ c.handoffTm := by
  rw [tick_motorState, tickLogic_motorState] at h ⊢
  split at h
  · rename_i hHandoff
    exact ⟨hHandoff.1, if_pos hHandoff, BitVec.not_lt.mp hHandoff.2⟩
  · exact absurd rfl h

end

/-- The transitions of the commands: STOP, a start, the hand-off. -/
theorem exec_transition {i : Instr} {s t : State} (hi : i.format = .cmd) (h : exec i s = .next t)
    (hne : t.motorState ≠ s.motorState) :
    (i = .stop ∧ t.motorState = .off) ∨
    ((i = .speedInc ∨ i = .speedDec) ∧ s.motorState = .off ∧ t.motorState = .rampup ∧ configValid s.cfg = true) ∨
    (i = .tick ∧ s.motorState = .rampup ∧ t.motorState = .on ∧ s.period ≤ s.cfg.handoffTm) := by
  cases i with
  | stop => cases h; exact .inl ⟨rfl, rfl⟩
  | speedInc => cases h; exact .inr (.inl ⟨.inl rfl, speedInc_transition hne⟩)
  | speedDec => cases h; exact .inr (.inl ⟨.inr rfl, speedDec_transition hne⟩)
  | tick => cases h; exact .inr (.inr ⟨rfl, tick_transition hne⟩)
  | nop | reserved6 | reserved7 | setManualDuty v => cases h; exact absurd rfl hne
  | _ => cases hi

theorem decodeCmd_format (cmd : CmdWord) : (decodeCmd cmd).format = .cmd := by
  unfold decodeCmd
  split <;> rfl

/-- Settles O52, by the input the step accepts. -/
theorem motorStateTransitions : Obligations.MotorStateTransitions := by
  intro s t h hne
  cases hi : s.inputs with
  | nil =>
    rw [step_of_inputs_nil hi] at h
    cases h
    exact absurd rfl hne
  | cons item rest =>
    rw [step_of_inputs_cons hi] at h
    refine ⟨item, rest, rfl, ?_⟩
    cases item with
    | rst => cases h; exact .inl ⟨rfl, rfl⟩
    | cmd cmd => exact .inr ⟨cmd, rfl, exec_transition (s := s.setInputs rest) (decodeCmd_format cmd) h hne⟩
    | requests r => cases h; exact absurd rfl hne
    | eval d =>
      obtain ⟨v, rfl⟩ := evalData_next h
      exact absurd rfl hne

/-! ### OFF under an invalid configuration -/

/-- In OFF with a zero duty target; outputs that were off are off, and nothing but SetTickPeriod was emitted then (R262). -/
def StaysOff (s t : Regs w) : Prop :=
  t.motorState = .off ∧ t.duty = 0 ∧
    (s.out = .allOff → t.out = s.out ∧ ∃ ds, t.directives = s.directives ++ ds ∧ ∀ d ∈ ds, ∃ v, d = .setTickPeriod v)

section
variable {s : Regs w}

theorem staysOff_of_eq {t : Regs w} (hState : t.motorState = .off) (hDuty : t.duty = 0)
    (hOut : s.out = .allOff → t.out = s.out) (hDirectives : t.directives = s.directives) : StaysOff s t :=
  ⟨hState, hDuty, fun h => ⟨hOut h, [], by rw [hDirectives, List.append_nil], nofun⟩⟩

/-- A TICK in OFF turns every channel off, so outputs that are off need no bracket. -/
theorem staysOff_tick (c : Cfg w) (hs : s.motorState = .off) : StaysOff s (tick c s) := by
  obtain ⟨hState, hDuty⟩ := tick_off_motorState_duty (c := c) hs
  refine ⟨hState, hDuty, fun hOut => ?_⟩
  have hSame : (tick c s).out = s.out := by rw [tick_out_of_duty_zero hDuty, hOut]
  refine ⟨hSame, _, tick_directives_eq_append c s, fun d hd => ?_⟩
  rw [tickEmission, if_pos hSame, List.append_nil] at hd
  split at hd
  · exact ⟨_, List.mem_singleton.mp hd⟩
  · cases hd

/-- START is refused, so no command leaves OFF. -/
theorem staysOff_coreStep {c : Cfg w} (hc : configValid c = false) (hs : s.motorState = .off) (hd : s.duty = 0)
    (cmd : BitVec (w + 3)) : StaysOff s (coreStep c cmd s) := by
  obtain h | h | h | h | h | h := coreStep_cases c cmd s <;> rw [h]
  · exact staysOff_of_eq hs hd (fun _ => rfl) rfl
  · exact staysOff_tick c hs
  · exact staysOff_of_eq rfl rfl (fun _ => rfl) rfl
  · rw [speedInc_off hs, start_invalid hc]
    exact staysOff_of_eq hs hd (fun _ => rfl) rfl
  · rw [speedDec_off hs, start_invalid hc]
    exact staysOff_of_eq hs hd (fun _ => rfl) rfl
  · exact staysOff_of_eq hs hd (fun _ => rfl) rfl

end

/-- Settles O53: a step is RESET, changes no register, or is a step of the core. -/
theorem invalidConfigurationStaysOff : Obligations.InvalidConfigurationStaysOff := by
  intro s t hc hs hd h
  show StaysOff s.toRegs t.toRegs
  obtain ⟨-, -, hr⟩ | hr | ⟨cmd, hr⟩ := step_toRegs_cases h <;> rw [hr]
  · exact staysOff_of_eq rfl rfl Eq.symm rfl
  · exact staysOff_of_eq hs hd (fun _ => rfl) rfl
  · exact staysOff_coreStep hc hs hd cmd

/-! ### The period of a ramp -/

/-- The period falls by at most 1 and does not pass the threshold (R173). -/
def RampPeriodFalls (c : Cfg w) (s t : Regs w) : Prop :=
  t.period.toNat ≤ s.period.toNat ∧ s.period.toNat ≤ t.period.toNat + 1 ∧ (c.handoffTm ≤ s.period → c.handoffTm ≤ t.period)

section
variable {c : Cfg w} {s : Regs w}

theorem rampPeriodFalls_of_eq {t : Regs w} (h : t.period = s.period) : RampPeriodFalls c s t := by
  rw [RampPeriodFalls, h]
  exact ⟨Nat.le_refl _, Nat.le_add_right _ 1, id⟩

/-- A TICK that ends in RAMPUP took the ramping arm. -/
theorem rampPeriodFalls_tick (h : (tick c s).motorState = .rampup) : RampPeriodFalls c s (tick c s) := by
  obtain ⟨hs, hp⟩ := tick_motorState_rampup_iff.mp h
  obtain ⟨hLe, hGe⟩ := tick_period_ramp_bounds hs hp
  have hCases := tick_period_ramp_cases hs hp
  exact ⟨BitVec.le_def.mp hLe, by omega, fun _ => hGe⟩

theorem rampPeriodFalls_coreStep (hs : s.motorState = .rampup) {cmd : BitVec (w + 3)}
    (ht : (coreStep c cmd s).motorState = .rampup) : RampPeriodFalls c s (coreStep c cmd s) := by
  obtain h | h | h | h | h | h := coreStep_cases c cmd s <;> rw [h] at ht ⊢
  · exact rampPeriodFalls_of_eq rfl
  · exact rampPeriodFalls_tick ht
  · cases ht
  · exact rampPeriodFalls_of_eq (congrArg Regs.period (speedInc_rampup hs))
  · exact rampPeriodFalls_of_eq (congrArg Regs.period (speedDec_rampup hs))
  · exact rampPeriodFalls_of_eq rfl

end

/-- Settles O54: RESET leaves RAMPUP, so a step that stays in it changes no register or is a step of the core. -/
theorem rampPeriodNeverRises : Obligations.RampPeriodNeverRises := by
  intro s t hs ht h
  show RampPeriodFalls s.cfg s.toRegs t.toRegs
  obtain ⟨-, -, hr⟩ | hr | ⟨cmd, hr⟩ := step_toRegs_cases h <;> rw [hr] at ht ⊢
  · cases ht
  · exact rampPeriodFalls_of_eq rfl
  · exact rampPeriodFalls_coreStep hs ht

end Sys2Proof.Machine
end

