-- ==== Sys2Proof/Proofs/RampLength.lean ====
section
/-! The length of the ramp in its two modes (41_ramp_generator.md R174), for every `W`. -/

namespace Sys2Proof.Machine

section
variable {w : Nat} {c : Cfg w} {s : Regs w}

/-- While the timer runs the TICKs count it down, at the same period and interval (R172). -/
theorem runTicks_geometric_countdown (hm : c.rampMode = .geometric) (hs : s.motorState = .rampup)
    (hp : c.handoffTm < s.period) (k : Nat) (hk : k ≤ s.rampTimer.toNat) :
    (runTicks c k s).motorState = .rampup ∧ (runTicks c k s).period = s.period ∧
      (runTicks c k s).rampInterval = s.rampInterval ∧ (runTicks c k s).rampTimer.toNat = s.rampTimer.toNat - k := by
  induction k with
  | zero => exact ⟨hs, rfl, rfl, rfl⟩
  | succ k ih =>
    obtain ⟨hRamp, hPeriod, hInterval, hTimer⟩ := ih (by omega)
    have hAbove : c.handoffTm < (runTicks c k s).period := hPeriod ▸ hp
    have hRunning : (runTicks c k s).rampTimer ≠ 0 := by
      intro h0
      rw [h0] at hTimer
      simp at hTimer
      omega
    obtain ⟨hPeriod', hInterval', hTimer'⟩ := tick_geometric_running hm hRamp hAbove hRunning
    rw [runTicks_succ]
    refine ⟨tick_motorState_rampup_iff.mpr ⟨hRamp, hAbove⟩, hPeriod'.trans hPeriod, hInterval'.trans hInterval, ?_⟩
    rw [hTimer', hTimer]
    omega

/-- A decrement of the period takes the timer's TICKs and one more, which halves the interval and reloads the timer from
it (R172). -/
theorem runTicks_geometric_decrement (hm : c.rampMode = .geometric) (hs : s.motorState = .rampup)
    (hp : c.handoffTm < s.period) :
    (runTicks c (s.rampTimer.toNat + 1) s).motorState = .rampup ∧
      (runTicks c (s.rampTimer.toNat + 1) s).period.toNat = s.period.toNat - 1 ∧
      (runTicks c (s.rampTimer.toNat + 1) s).rampInterval = halveInterval c s.rampInterval ∧
      (runTicks c (s.rampTimer.toNat + 1) s).rampTimer = halveInterval c s.rampInterval := by
  obtain ⟨hRamp, hPeriod, hInterval, hTimer⟩ := runTicks_geometric_countdown hm hs hp _ (Nat.le_refl _)
  have hAbove : c.handoffTm < (runTicks c s.rampTimer.toNat s).period := hPeriod ▸ hp
  have hExpired : (runTicks c s.rampTimer.toNat s).rampTimer = 0 :=
    BitVec.eq_of_toNat_eq (by simpa using hTimer)
  obtain ⟨hPeriod', hTimer', hInterval'⟩ := tick_geometric_expired hm hRamp hAbove hExpired
  rw [hPeriod] at hPeriod'
  rw [hInterval] at hTimer' hInterval'
  exact ⟨tick_motorState_rampup_iff.mpr ⟨hRamp, hAbove⟩, hPeriod', hInterval', hTimer'⟩

/-- After the TICKs of the first `n` decrements timer and interval hold `i_n` (R174). -/
theorem runTicks_geometricTicks (hm : c.rampMode = .geometric) (hs : s.motorState = .rampup)
    (hTimer : s.rampTimer = c.rampStepTmStart) (hInterval : s.rampInterval = c.rampStepTmStart) (n : Nat)
    (hn : c.handoffTm.toNat + n ≤ s.period.toNat) :
    (runTicks c (geometricTicks c n) s).motorState = .rampup ∧
      (runTicks c (geometricTicks c n) s).period.toNat = s.period.toNat - n ∧
      (runTicks c (geometricTicks c n) s).rampInterval.toNat = geometricInterval c n ∧
      (runTicks c (geometricTicks c n) s).rampTimer.toNat = geometricInterval c n := by
  induction n with
  | zero => exact ⟨hs, rfl, congrArg BitVec.toNat hInterval, congrArg BitVec.toNat hTimer⟩
  | succ n ih =>
    obtain ⟨hRamp, hPeriod, hInterval, hTimer⟩ := ih (by omega)
    have hAbove : c.handoffTm < (runTicks c (geometricTicks c n) s).period := BitVec.lt_def.mpr (by omega)
    obtain ⟨hRamp', hPeriod', hInterval', hTimer'⟩ := runTicks_geometric_decrement hm hRamp hAbove
    rw [hTimer, ← runTicks_add, Nat.add_comm] at hRamp' hPeriod' hInterval' hTimer'
    rw [geometricTicks, geometricInterval, hInterval', hTimer', toNat_halveInterval, hInterval]
    exact ⟨hRamp', by rw [hPeriod', hPeriod, Nat.sub_sub], rfl, rfl⟩

end

/-- Settles O56: from `BLDC_OL_TM_LO_SPD` there are `N` TICKs above the threshold. -/
theorem fixedRampLength : Obligations.FixedRampLength := by
  refine ⟨exec_tick, fun w c s hs hPeriod hLo hm => ?_⟩
  rw [BitVec.lt_def] at hLo
  refine ⟨fun k hk => ?_, runTicks_fixed_handoff hm hs (by rw [hPeriod]; omega)⟩
  rw [← hPeriod] at hk ⊢
  exact runTicks_fixed hm hs k (by rw [hPeriod] at hk ⊢; omega)

/-- Settles O57: the TICKs of the first `n` decrements, and the hand-off where the period has reached the threshold. -/
theorem geometricRampLength : Obligations.GeometricRampLength := by
  intro w c s hs hPeriod hLo hm hTimer hInterval
  rw [BitVec.lt_def] at hLo
  have hRun (n : Nat) (hn : n ≤ c.loSpdTm.toNat - c.handoffTm.toNat) :=
    hPeriod ▸ runTicks_geometricTicks hm hs hTimer hInterval n (by rw [hPeriod]; omega)
  refine ⟨hRun, ?_⟩
  obtain ⟨hRamp, hEnd, -⟩ := hRun _ (Nat.le_refl _)
  exact (tick_handoff hRamp (BitVec.le_def.mpr (by omega))).1

end Sys2Proof.Machine
end
